-- ==== Sys2Proof/Word.lean ====
section
/-!
DEFINITION. The words of the machine: bytes, 16-bit words, register numbers. Every quantity is unsigned
(00_scope.md R10), so a value is a bit vector and its number is its `toNat`.
-/
namespace Sys2Proof

/-- An 8-bit quantity: a memory byte, a general register, a timer (00_scope.md R7). -/
abbrev Byte := BitVec 8

/-- A 16-bit quantity: an instruction word, `pc`, `I`, a return address (00_scope.md R7). -/
abbrev Word := BitVec 16

/-- The number of a general register, V0 to VF (10_state.md R101). -/
abbrev Reg := Fin 16

/-- A 12-bit address operand NNN (30_encoding.md R303). -/
abbrev Addr12 := BitVec 12

/-- A 4-bit operand N (30_encoding.md R303). -/
abbrev Nibble := BitVec 4

/-- VF, the register the flag instructions also write (10_state.md R104). -/
abbrev vf : Reg := 15

end Sys2Proof
end

