-- ==== Sys2Proof/Config.lean ====
section
/-!
DEFINITION. What an implementation fixes: the fixed parameters (00_scope.md R7), the open parameters (R8), and the free values
that stand for what the spec leaves unspecified after a fault (60_exceptions.md R710). An open parameter or a free value is a
constant with no body: nothing can be proved about its value, so a theorem holds whatever it is.
-/
namespace Sys2Proof.Config

/-- MEM_SIZE: memory has the addresses 0 to 4095 (00_scope.md R7). -/
abbrev memSize : Nat := 4096

/-- GLYPH_BYTES of all 16 glyphs together: the table fills 0x000 to 0x04F (00_scope.md R7). -/
abbrev glyphSize : Nat := 80

/-- PROG_BASE: a program image is loaded from here upward (00_scope.md R7). -/
abbrev progBase : Nat := 0x200

/-- PROG_MAX: the longest program image, in bytes (00_scope.md R7). -/
abbrev progMax : Nat := 3584

/-- PC_RESET (00_scope.md R7). -/
abbrev pcReset : Word := 0x200

/-- DISP_W, the columns of the display (00_scope.md R7). -/
abbrev dispWidth : Nat := 64

/-- DISP_H, the rows of the display (00_scope.md R7). -/
abbrev dispHeight : Nat := 32

/-- GLYPH_TABLE, the 80 bytes that reset puts at 0x000 to 0x04F: an open parameter (00_scope.md R8, 10_state.md R141). Log 4. -/
opaque glyphTable : Vector Byte glyphSize

/-- RNG_SEED, the generator state after reset: an open parameter (00_scope.md R8, 10_state.md R140). Log 5. -/
opaque rngSeed : BitVec 32

/-- RNG_STEP, from a generator state to the next state and the byte delivered: an open parameter, a total function of the state
alone (44_random.md R491). Log 6. -/
opaque rngStep : BitVec 32 → BitVec 32 × Byte

/-! Free values of the state after the `n`-th fault (60_exceptions.md R710, 93_implementation_defined.md U1). Log 2. -/

/-- Writes that bring memory from its reset contents to whatever it holds after the fault. -/
opaque afterFaultMem : Nat → List (Nat × Byte)

/-- The general registers after the fault. -/
opaque afterFaultV : Nat → Vector Byte 16

/-- `I` after the fault. -/
opaque afterFaultI : Nat → Word

/-- `pc` after the fault. -/
opaque afterFaultPc : Nat → Word

/-- The call stack's entries after the fault. -/
opaque afterFaultStack : Nat → Vector Word 16

/-- `sp` after the fault, one of its values 0 to 16 (10_state.md R120). -/
opaque afterFaultSp : Nat → Fin 17

/-- The display after the fault. -/
opaque afterFaultDisp : Nat → Vector (BitVec 64) dispHeight

/-- The keypad latch after the fault. -/
opaque afterFaultKey : Nat → Vector Bool 16

/-- `DT` after the fault. -/
opaque afterFaultDt : Nat → Byte

/-- `ST` after the fault. -/
opaque afterFaultSt : Nat → Byte

/-- The generator state after the fault. -/
opaque afterFaultRng : Nat → BitVec 32

/-! The defaults the spec names for simulation. They are not the reference's (44_random.md R495, 10_state.md R141) and nothing in
the machine uses them: a claim that wants one takes it as a hypothesis. -/

/-- The default GLYPH_TABLE (10_state.md R141, general knowledge). -/
def defaultGlyphs : Vector Byte glyphSize :=
  ⟨#[0xF0, 0x90, 0x90, 0x90, 0xF0, 0x20, 0x60, 0x20, 0x20, 0x70,
     0xF0, 0x10, 0xF0, 0x80, 0xF0, 0xF0, 0x10, 0xF0, 0x10, 0xF0,
     0x90, 0x90, 0xF0, 0x10, 0x10, 0xF0, 0x80, 0xF0, 0x10, 0xF0,
     0xF0, 0x80, 0xF0, 0x90, 0xF0, 0xF0, 0x10, 0x20, 0x40, 0x40,
     0xF0, 0x90, 0xF0, 0x90, 0xF0, 0xF0, 0x90, 0xF0, 0x10, 0xF0,
     0xF0, 0x90, 0xF0, 0x90, 0x90, 0xE0, 0x90, 0xE0, 0x90, 0xE0,
     0xF0, 0x80, 0x80, 0x80, 0xF0, 0xE0, 0x90, 0x90, 0x90, 0xE0,
     0xF0, 0x80, 0xF0, 0x80, 0xF0, 0xF0, 0x80, 0xF0, 0x80, 0x80], rfl⟩

/-- The default RNG_SEED (44_random.md R495). -/
def defaultRngSeed : BitVec 32 := 1

/-- The structured generator of 44_random.md R494: a linear congruential step modulo 2^32, the byte taken from the new state. -/
def lcgStep (a c : BitVec 32) (out : BitVec 32 → Byte) (s : BitVec 32) : BitVec 32 × Byte :=
  (a * s + c, out (a * s + c))

/-- The default RNG_STEP (44_random.md R495). -/
def defaultRngStep : BitVec 32 → BitVec 32 × Byte :=
  lcgStep 1664525 1013904223 (fun s => s.extractLsb' 24 8)

end Sys2Proof.Config
end

