-- ==== Sys2Proof/Syntax.lean ====
section
/-!
DEFINITION. The instructions: one constructor per row of spec/opcode_table.json (30_encoding.md R310), in the table's order. The operands
have the widths of 30_encoding.md R303, so an operand out of range cannot be written down (10_state.md R101). A row of the
opcode map is data too (`Row`).
-/
namespace Sys2Proof

/-- The 35 instructions. `x` and `y` are the fields X and Y, `nn` an 8-bit immediate, `nnn` a 12-bit address, `n` a 4-bit count. -/
inductive Instr where
  /-- `0000` NOP -/
  | nop
  /-- `00E0` CLS -/
  | cls
  /-- `00EE` RET -/
  | ret
  /-- `1NNN` JP addr -/
  | jp (nnn : Addr12)
  /-- `2NNN` CALL addr -/
  | call (nnn : Addr12)
  /-- `3XNN` SE Vx, byte -/
  | seImm (x : Reg) (nn : Byte)
  /-- `4XNN` SNE Vx, byte -/
  | sneImm (x : Reg) (nn : Byte)
  /-- `5XY0` SE Vx, Vy -/
  | seReg (x y : Reg)
  /-- `6XNN` LD Vx, byte -/
  | ldImm (x : Reg) (nn : Byte)
  /-- `7XNN` ADD Vx, byte -/
  | addImm (x : Reg) (nn : Byte)
  /-- `8XY0` LD Vx, Vy -/
  | ldReg (x y : Reg)
  /-- `8XY1` OR Vx, Vy -/
  | orReg (x y : Reg)
  /-- `8XY2` AND Vx, Vy -/
  | andReg (x y : Reg)
  /-- `8XY3` XOR Vx, Vy -/
  | xorReg (x y : Reg)
  /-- `8XY4` ADD Vx, Vy -/
  | addReg (x y : Reg)
  /-- `8XY5` SUB Vx, Vy -/
  | subReg (x y : Reg)
  /-- `8XY6` SHR Vx; `y` is encoded and ignored (30_encoding.md R316) -/
  | shr (x y : Reg)
  /-- `8XY7` SUBN Vx, Vy -/
  | subnReg (x y : Reg)
  /-- `8XYE` SHL Vx; `y` is encoded and ignored (30_encoding.md R316) -/
  | shl (x y : Reg)
  /-- `9XY0` SNE Vx, Vy -/
  | sneReg (x y : Reg)
  /-- `ANNN` LD I, addr -/
  | ldI (nnn : Addr12)
  /-- `BNNN` JP V0, addr -/
  | jpV0 (nnn : Addr12)
  /-- `CXNN` RND Vx, byte -/
  | rnd (x : Reg) (nn : Byte)
  /-- `DXYN` DRW Vx, Vy, nibble -/
  | drw (x y : Reg) (n : Nibble)
  /-- `EX9E` SKP Vx -/
  | skp (x : Reg)
  /-- `EXA1` SKNP Vx -/
  | sknp (x : Reg)
  /-- `FX07` LD Vx, DT -/
  | ldVxDt (x : Reg)
  /-- `FX0A` LD Vx, K -/
  | ldVxK (x : Reg)
  /-- `FX15` LD DT, Vx -/
  | ldDtVx (x : Reg)
  /-- `FX18` LD ST, Vx -/
  | ldStVx (x : Reg)
  /-- `FX1E` ADD I, Vx -/
  | addIVx (x : Reg)
  /-- `FX29` LD F, Vx -/
  | ldFVx (x : Reg)
  /-- `FX33` LD B, Vx -/
  | ldBVx (x : Reg)
  /-- `FX55` LD [I], Vx -/
  | ldMemVx (x : Reg)
  /-- `FX65` LD Vx, [I] -/
  | ldVxMem (x : Reg)
deriving DecidableEq, Repr

/-- A row of the opcode map: the word `w` selects it when `w &&& mask = value` (30_encoding.md R310; `value` is its match column). -/
structure Row where
  mnemonic : String
  mask : Word
  value : Word
deriving DecidableEq, Repr

end Sys2Proof
end

