-- ==== Sys2Proof/WellFormed.lean ====
section
/-!
DEFINITION. The checks that types do not make. An `Instr` needs none: its operands have exactly the widths of their fields
(30_encoding.md R303), so every term is an instruction of the table. What can be ill-formed is a row of an opcode map, a map whose rows
overlap, and the operands of the host's LOAD and PRESS_KEY.
-/
namespace Sys2Proof

/-- A row is well formed when its match has no bit outside its mask (30_encoding.md R310). -/
def Row.wf (r : Row) : Bool := r.value &&& r.mask == r.value

/-- Two rows are apart when some bit fixed by both differs, so that no word matches both (30_encoding.md R312). -/
def Row.apart (r q : Row) : Bool := (r.value ^^^ q.value) &&& (r.mask &&& q.mask) != 0

/-- A map is well formed when its rows are and are pairwise disjoint (30_encoding.md R312). -/
def opcodeMapWf : List Row → Bool
  | [] => true
  | r :: rs => r.wf && rs.all r.apart && opcodeMapWf rs

/-- A program image fits when it has at most PROG_MAX bytes (50_host_interface.md R610). -/
def imageFits (bytes : List Byte) : Bool := bytes.length ≤ Config.progMax

/-- A key index names a key when it is at most 15 (50_host_interface.md R615). -/
def keyInRange (index : Nat) : Bool := index ≤ 15

end Sys2Proof
end

