-- ==== Sys2Proof/Decode.lean ====
section
/-!
DEFINITION. The opcode map, the decoder and the encoder (30_encoding.md R301 to R334). The decoder is the procedure of R313, total on
all words and on any bytes, and names the group of R315 that it rejects.
-/
namespace Sys2Proof

/-- The 35 rows of 30_encoding.md R310, in its order. -/
def opcodeMap : List Row :=
  [⟨"NOP", 0xFFFF, 0x0000⟩, ⟨"CLS", 0xFFFF, 0x00E0⟩, ⟨"RET", 0xFFFF, 0x00EE⟩, ⟨"JP_addr", 0xF000, 0x1000⟩,
   ⟨"CALL_addr", 0xF000, 0x2000⟩, ⟨"SE_Vx__byte", 0xF000, 0x3000⟩, ⟨"SNE_Vx__byte", 0xF000, 0x4000⟩, ⟨"SE_Vx__Vy", 0xF00F, 0x5000⟩,
   ⟨"LD_Vx__byte", 0xF000, 0x6000⟩, ⟨"ADD_Vx__byte", 0xF000, 0x7000⟩] ++
  [⟨"LD_Vx__Vy", 0xF00F, 0x8000⟩, ⟨"OR_Vx__Vy", 0xF00F, 0x8001⟩, ⟨"AND_Vx__Vy", 0xF00F, 0x8002⟩, ⟨"XOR_Vx__Vy", 0xF00F, 0x8003⟩,
   ⟨"ADD_Vx__Vy", 0xF00F, 0x8004⟩, ⟨"SUB_Vx__Vy", 0xF00F, 0x8005⟩, ⟨"SHR_Vx", 0xF00F, 0x8006⟩, ⟨"SUBN_Vx__Vy", 0xF00F, 0x8007⟩,
   ⟨"SHL_Vx", 0xF00F, 0x800E⟩, ⟨"SNE_Vx__Vy", 0xF00F, 0x9000⟩] ++
  [⟨"LD_I__addr", 0xF000, 0xA000⟩, ⟨"JP_V0__addr", 0xF000, 0xB000⟩, ⟨"RND_Vx__byte", 0xF000, 0xC000⟩,
   ⟨"DRW_Vx__Vy__nibble", 0xF000, 0xD000⟩, ⟨"SKP_Vx", 0xF0FF, 0xE09E⟩, ⟨"SKNP_Vx", 0xF0FF, 0xE0A1⟩, ⟨"LD_Vx__DT", 0xF0FF, 0xF007⟩,
   ⟨"LD_Vx__K", 0xF0FF, 0xF00A⟩, ⟨"LD_DT__Vx", 0xF0FF, 0xF015⟩, ⟨"LD_ST__Vx", 0xF0FF, 0xF018⟩] ++
  [⟨"ADD_I__Vx", 0xF0FF, 0xF01E⟩, ⟨"LD_F__Vx", 0xF0FF, 0xF029⟩, ⟨"LD_B__Vx", 0xF0FF, 0xF033⟩, ⟨"LD__I___Vx", 0xF0FF, 0xF055⟩,
   ⟨"LD_Vx___I", 0xF0FF, 0xF065⟩]

/-- The word selects the row (30_encoding.md R310). -/
def Row.selects (r : Row) (w : Word) : Bool := w &&& r.mask == r.value

/-- Why bytes are no instruction: there are not two of them, or the word lies in one of the six illegal groups of 30_encoding.md R315. -/
inductive DecodeReject where
  /-- fewer than two bytes -/
  | truncated
  /-- d1 = 0 and the word is none of 0x0000, 0x00E0, 0x00EE -/
  | group0
  /-- d1 = 5 and d4 is not 0 -/
  | group5
  /-- d1 = 8 and d4 is one of 8 to D, F -/
  | group8
  /-- d1 = 9 and d4 is not 0 -/
  | group9
  /-- d1 = E and d3d4 is neither 9E nor A1 -/
  | groupE
  /-- d1 = F and d3d4 is none of the nine values of R311 -/
  | groupF
deriving DecidableEq, Repr

/-- The nibble of `w` whose lowest bit is bit `k` (30_encoding.md R301). -/
def nibbleAt (w : Word) (k : Nat) : Nibble := w.extractLsb' k 4

/-- X = w[11:8] (30_encoding.md R303). -/
def fieldX (w : Word) : Reg := (nibbleAt w 8).toFin

/-- Y = w[7:4] (30_encoding.md R303). -/
def fieldY (w : Word) : Reg := (nibbleAt w 4).toFin

/-- N = w[3:0] (30_encoding.md R303). -/
def fieldN (w : Word) : Nibble := nibbleAt w 0

/-- NN = w[7:0] (30_encoding.md R303). -/
def fieldNN (w : Word) : Byte := w.extractLsb' 0 8

/-- NNN = w[11:0] (30_encoding.md R303). -/
def fieldNNN (w : Word) : Addr12 := w.extractLsb' 0 12

/-- The d1 = 0 group: three whole words (30_encoding.md R313). -/
def decode0 (w : Word) : Except DecodeReject Instr :=
  if w = 0x0000 then .ok .nop
  else if w = 0x00E0 then .ok .cls
  else if w = 0x00EE then .ok .ret
  else .error .group0

/-- The d1 = 8 group, by d4 (30_encoding.md R313). -/
def decode8 (w : Word) : Except DecodeReject Instr :=
  match (fieldN w).toNat with
  | 0x0 => .ok (.ldReg (fieldX w) (fieldY w))
  | 0x1 => .ok (.orReg (fieldX w) (fieldY w))
  | 0x2 => .ok (.andReg (fieldX w) (fieldY w))
  | 0x3 => .ok (.xorReg (fieldX w) (fieldY w))
  | 0x4 => .ok (.addReg (fieldX w) (fieldY w))
  | 0x5 => .ok (.subReg (fieldX w) (fieldY w))
  | 0x6 => .ok (.shr (fieldX w) (fieldY w))
  | 0x7 => .ok (.subnReg (fieldX w) (fieldY w))
  | 0xE => .ok (.shl (fieldX w) (fieldY w))
  | _ => .error .group8

/-- The d1 = E group, by d3d4 (30_encoding.md R313). -/
def decodeE (w : Word) : Except DecodeReject Instr :=
  if fieldNN w = 0x9E then .ok (.skp (fieldX w))
  else if fieldNN w = 0xA1 then .ok (.sknp (fieldX w))
  else .error .groupE

/-- The d1 = F group, by d3d4 (30_encoding.md R313). -/
def decodeF (w : Word) : Except DecodeReject Instr :=
  if fieldNN w = 0x07 then .ok (.ldVxDt (fieldX w))
  else if fieldNN w = 0x0A then .ok (.ldVxK (fieldX w))
  else if fieldNN w = 0x15 then .ok (.ldDtVx (fieldX w))
  else if fieldNN w = 0x18 then .ok (.ldStVx (fieldX w))
  else if fieldNN w = 0x1E then .ok (.addIVx (fieldX w))
  else if fieldNN w = 0x29 then .ok (.ldFVx (fieldX w))
  else if fieldNN w = 0x33 then .ok (.ldBVx (fieldX w))
  else if fieldNN w = 0x55 then .ok (.ldMemVx (fieldX w))
  else if fieldNN w = 0x65 then .ok (.ldVxMem (fieldX w))
  else .error .groupF

/-- Decode(w) of 30_encoding.md R313. A nibble is at most 15, so the last arm is d1 = F. -/
def decodeWord (w : Word) : Except DecodeReject Instr :=
  match (nibbleAt w 12).toNat with
  | 0x0 => decode0 w
  | 0x1 => .ok (.jp (fieldNNN w))
  | 0x2 => .ok (.call (fieldNNN w))
  | 0x3 => .ok (.seImm (fieldX w) (fieldNN w))
  | 0x4 => .ok (.sneImm (fieldX w) (fieldNN w))
  | 0x5 => if fieldN w = 0 then .ok (.seReg (fieldX w) (fieldY w)) else .error .group5
  | 0x6 => .ok (.ldImm (fieldX w) (fieldNN w))
  | 0x7 => .ok (.addImm (fieldX w) (fieldNN w))
  | 0x8 => decode8 w
  | 0x9 => if fieldN w = 0 then .ok (.sneReg (fieldX w) (fieldY w)) else .error .group9
  | 0xA => .ok (.ldI (fieldNNN w))
  | 0xB => .ok (.jpV0 (fieldNNN w))
  | 0xC => .ok (.rnd (fieldX w) (fieldNN w))
  | 0xD => .ok (.drw (fieldX w) (fieldY w) (fieldN w))
  | 0xE => decodeE w
  | _ => decodeF w

/-- The instruction word of two bytes, the byte at the lower address above (20_memory.md R210). -/
def wordOfBytes (hi lo : Byte) : Word := hi ++ lo

/-- The byte at the lower address (30_encoding.md R334: `w[15:8]`). -/
def highByte (w : Word) : Byte := w.extractLsb' 8 8

/-- The byte at the higher address (30_encoding.md R334: `w[7:0]`). -/
def lowByte (w : Word) : Byte := w.extractLsb' 0 8

/-- Decoding any bytes: the instruction the first two hold and the bytes after it. -/
def decode : List Byte → Except DecodeReject (Instr × List Byte)
  | hi :: lo :: rest => (decodeWord (wordOfBytes hi lo)).map fun i => (i, rest)
  | _ => .error .truncated

/-- A register number at its place in the word. -/
def regAt (r : Reg) (k : Nat) : Word := BitVec.ofNat 16 r.val <<< k

/-- Format R: `match | (X << 8) | (Y << 4)` (30_encoding.md R334). -/
def formatR (base : Word) (x y : Reg) : Word := base ||| regAt x 8 ||| regAt y 4

/-- Format I: `match | (X << 8) | NN` (30_encoding.md R334). -/
def formatI (base : Word) (x : Reg) (nn : Byte) : Word := base ||| regAt x 8 ||| nn.setWidth 16

/-- Format A: `match | NNN` (30_encoding.md R334). -/
def formatA (base : Word) (nnn : Addr12) : Word := base ||| nnn.setWidth 16

/-- Format U: `match | (X << 8)` (30_encoding.md R334). -/
def formatU (base : Word) (x : Reg) : Word := base ||| regAt x 8

/-- Format D: `match | (X << 8) | (Y << 4) | N` (30_encoding.md R334). -/
def formatD (base : Word) (x y : Reg) (n : Nibble) : Word := base ||| regAt x 8 ||| regAt y 4 ||| n.setWidth 16

/-- The word of an instruction (30_encoding.md R334; the match column of R310). -/
def encode : Instr → Word
  | .nop => 0x0000
  | .cls => 0x00E0
  | .ret => 0x00EE
  | .jp nnn => formatA 0x1000 nnn
  | .call nnn => formatA 0x2000 nnn
  | .seImm x nn => formatI 0x3000 x nn
  | .sneImm x nn => formatI 0x4000 x nn
  | .seReg x y => formatR 0x5000 x y
  | .ldImm x nn => formatI 0x6000 x nn
  | .addImm x nn => formatI 0x7000 x nn
  | .ldReg x y => formatR 0x8000 x y
  | .orReg x y => formatR 0x8001 x y
  | .andReg x y => formatR 0x8002 x y
  | .xorReg x y => formatR 0x8003 x y
  | .addReg x y => formatR 0x8004 x y
  | .subReg x y => formatR 0x8005 x y
  | .shr x y => formatR 0x8006 x y
  | .subnReg x y => formatR 0x8007 x y
  | .shl x y => formatR 0x800E x y
  | .sneReg x y => formatR 0x9000 x y
  | .ldI nnn => formatA 0xA000 nnn
  | .jpV0 nnn => formatA 0xB000 nnn
  | .rnd x nn => formatI 0xC000 x nn
  | .drw x y n => formatD 0xD000 x y n
  | .skp x => formatU 0xE09E x
  | .sknp x => formatU 0xE0A1 x
  | .ldVxDt x => formatU 0xF007 x
  | .ldVxK x => formatU 0xF00A x
  | .ldDtVx x => formatU 0xF015 x
  | .ldStVx x => formatU 0xF018 x
  | .addIVx x => formatU 0xF01E x
  | .ldFVx x => formatU 0xF029 x
  | .ldBVx x => formatU 0xF033 x
  | .ldMemVx x => formatU 0xF055 x
  | .ldVxMem x => formatU 0xF065 x

/-- The bytes of an instruction in memory order (30_encoding.md R334). -/
def encodeBytes (i : Instr) : List Byte := [highByte (encode i), lowByte (encode i)]

/-- The word of which the low `nbits` bits are those of `w` and all above are 0. -/
def tableWord (nbits w : Nat) : Word := BitVec.ofNat 16 (w % 2 ^ nbits)

/-- The instruction the decoder reads from the bits `w` of an opcode-table row of `nbits` bits. Every instruction is one
16-bit word (30_encoding.md R300), so bit 0 of the table is bit 0 of the word. -/
def decodeTableWord (nbits w : Nat) : Option Instr :=
  match decode [highByte (tableWord nbits w), lowByte (tableWord nbits w)] with
  | .ok (i, _) => some i
  | .error _ => none

end Sys2Proof
end

