-- ==== Sys2Proof/Machine/State.lean ====
section
/-!
DEFINITION. The state of the core, whole (10_state.md R100), the seven faults, the state after reset (R140).
-/
namespace Sys2Proof.Machine

/-- The seven faults of the core (60_exceptions.md R701). A fault is not an end of the model's run: the meaning that raises it TAKES
it, as a next state whose `status` is `faulted` (R710), so no step answers `Outcome.fault`. Safe: after a fault every other element of
the state is a free value. -/
inductive Fault where
  /-- Code 1. Raised by a step's fetch when `pc + 1 > 4095` (60_exceptions.md R702). Safe: taken as the spec says. -/
  | fetchOutOfBounds
  /-- Code 2. Raised by a step's decode when the word matches no row of the opcode map (60_exceptions.md R703). Safe: taken as the spec says. -/
  | unimplementedInstruction
  /-- Code 3. Raised by CALL (2NNN) when all 16 entries are in use (60_exceptions.md R704). Safe: taken as the spec says. -/
  | stackOverflow
  /-- Code 4. Raised by RET (00EE) when the stack is empty (60_exceptions.md R705). Safe: taken as the spec says. -/
  | stackUnderflow
  /-- Code 5. Raised by SKP (EX9E) and SKNP (EXA1) when VX > 15, and by PRESS_KEY (60_exceptions.md R706). Safe: taken as the spec says. -/
  | keyIndexOutOfRange
  /-- Code 6. Raised by DXYN, FX33, FX55, FX65 for a data address above 4095 (60_exceptions.md R707). Safe: taken as the spec says. -/
  | memoryOutOfBounds
  /-- Code 7. Raised by LOAD for an image of more than 3584 bytes (60_exceptions.md R708). Safe: taken as the spec says. -/
  | imageTooLarge
deriving DecidableEq, Repr

/-- Why the model gives an instruction no meaning. -/
inductive Refusal where
  /-- An instruction not modelled yet, by its mnemonic. Raised only by an arm of `exec`; no arm raises it now. Safe: the model stops. -/
  | notModelled (mnemonic : String)
deriving DecidableEq, Repr

/-- `status` (10_state.md R130): running, or faulted with the fault record of 60_exceptions.md R711. -/
inductive Status where
  | running
  | faulted (fault : Fault) (addr opcode : Word)
deriving DecidableEq, Repr

/-- Memory: the bytes that differ from what reset leaves, by rising address (`Memory.wf`, Machine/Ops.lean). -/
abbrev Memory := List Host.Cell

/-- The display: 32 rows of 64 pixels. Pixel (x, y) is bit x of row y, the spec's `disp[y * 64 + x]` (10_state.md R127). -/
abbrev Display := Vector (BitVec 64) Config.dispHeight

/-- The whole state (10_state.md R100). `freeIndex` is the model's own: it counts the faults taken and picks the free values that
stand for what a fault leaves unspecified (60_exceptions.md R710; log 2). -/
structure State where
  /-- `mem`, 4096 bytes (20_memory.md R200) -/
  mem : Memory
  /-- V0 to VF (10_state.md R101) -/
  v : Vector Byte 16
  /-- the address register I (10_state.md R115) -/
  i : Word
  /-- the program counter (10_state.md R110) -/
  pc : Word
  /-- the call stack's entries (10_state.md R120) -/
  stack : Vector Word 16
  /-- the number of entries in use, 0 to 16 (10_state.md R120) -/
  sp : Fin 17
  /-- the display buffer (10_state.md R127) -/
  disp : Display
  /-- the keypad latch (10_state.md R128) -/
  key : Vector Bool 16
  /-- the delay timer DT (10_state.md R125) -/
  dt : Byte
  /-- the sound timer ST (10_state.md R125) -/
  st : Byte
  /-- the generator state (10_state.md R129) -/
  rng : BitVec 32
  /-- running or faulted (10_state.md R130) -/
  status : Status
  /-- the model's own count of faults taken (log 2) -/
  freeIndex : Nat
deriving DecidableEq, Repr

/-- What a step or a meaning answers. -/
abbrev Result := Host.Outcome State Fault Refusal

/-- The state after RESET (10_state.md R140): memory holds its reset contents, so nothing is listed. -/
def State.reset : State where
  mem := []
  v := Vector.replicate 16 0
  i := 0
  pc := Config.pcReset
  stack := Vector.replicate 16 0
  sp := 0
  disp := Vector.replicate Config.dispHeight 0
  key := Vector.replicate 16 false
  dt := 0
  st := 0
  rng := Config.rngSeed
  status := .running
  freeIndex := 0

end Sys2Proof.Machine
end

