-- ==== Sys2Proof/Machine/Ops.lean ====
section
/-!
DEFINITION. The named operations over memory and registers, taking a fault and coming back from one, the fetch.
-/
namespace Sys2Proof.Machine

/-! Memory (20_memory.md). -/

/-- What an address that memory does not list reads as: its contents after reset (10_state.md R140). -/
def background (a : Nat) : Byte := if h : a < Config.glyphSize then Config.glyphTable[a] else 0

/-- The canonical form of a memory: addresses rise strictly, lie in the address space, and no byte listed equals what its address reads
as when it is not listed. -/
abbrev Memory.wf (m : Memory) : Prop :=
  m.Pairwise (fun c d => c.1 < d.1) ∧ ∀ c ∈ m, c.1 < Config.memSize ∧ c.2 ≠ background c.1

/-- The byte at an address (20_memory.md R205, after its bounds check). -/
def readByte : Memory → Nat → Byte
  | [], a => background a
  | c :: m, a => if c.1 = a then c.2 else readByte m a

/-- Listing a byte at an address, or taking the address off the list where the byte is what it reads as unlisted. -/
def putCell : Memory → Nat → Byte → Memory
  | [], a, b => if b = background a then [] else [(a, b)]
  | c :: m, a, b =>
    if c.1 < a then c :: putCell m a b
    else if c.1 = a then (if b = background a then m else (a, b) :: m)
    else if b = background a then c :: m else (a, b) :: c :: m

/-- Writing one byte (20_memory.md R206, after its bounds check): outside the address space there is nothing to write. -/
def writeByte (m : Memory) (a : Nat) (b : Byte) : Memory := if a < Config.memSize then putCell m a b else m

/-- The `n` bytes from `base` upward, lowest address first. -/
def readBytes (m : Memory) (base : Nat) : Nat → List Byte
  | 0 => []
  | n + 1 => readByte m base :: readBytes m (base + 1) n

/-- Writing bytes from `base` upward, lowest address first. -/
def writeBytes (m : Memory) (base : Nat) : List Byte → Memory
  | [] => m
  | b :: bs => writeBytes (writeByte m base b) (base + 1) bs

/-! One reader or writer for each element of the state. -/

/-- Reading V[x] (10_state.md R101: no register is hardwired, R102). -/
def State.reg (s : State) (x : Reg) : Byte := s.v.get x

/-- Writing V[x]. -/
def State.setReg (s : State) (x : Reg) (b : Byte) : State := { s with v := s.v.set x b }

/-- Writing all general registers at once. -/
def State.setV (s : State) (v : Vector Byte 16) : State := { s with v := v }

/-- Writing `pc`. -/
def State.setPc (s : State) (a : Word) : State := { s with pc := a }

/-- Writing I. -/
def State.setI (s : State) (a : Word) : State := { s with i := a }

/-- Writing memory. -/
def State.setMem (s : State) (m : Memory) : State := { s with mem := m }

/-- Writing the display. -/
def State.setDisp (s : State) (d : Display) : State := { s with disp := d }

/-- Writing DT. -/
def State.setDt (s : State) (b : Byte) : State := { s with dt := b }

/-- Writing ST. -/
def State.setSt (s : State) (b : Byte) : State := { s with st := b }

/-- Writing the generator state. -/
def State.setRng (s : State) (r : BitVec 32) : State := { s with rng := r }

/-- Writing the keypad latch. -/
def State.setKey (s : State) (k : Vector Bool 16) : State := { s with key := k }

/-! The call stack (10_state.md R120). -/

/-- Push(v) of 10_state.md R121; none when all 16 entries are in use. -/
def State.push (s : State) (a : Word) : Option State :=
  if h : s.sp.val < 16 then
    some { s with stack := s.stack.set s.sp.val a, sp := ⟨s.sp.val + 1, by omega⟩ }
  else none

/-- Pop() of 10_state.md R122; none when the stack is empty. The popped slot keeps its value. -/
def State.pop (s : State) : Option (Word × State) :=
  if h : s.sp.val = 0 then none
  else some (s.stack[s.sp.val - 1], { s with sp := ⟨s.sp.val - 1, by omega⟩ })

/-! The display (10_state.md R127). -/

/-- `disp[p]`, p = y * 64 + x. There are 2048 pixels; past them there is none, which reads false. -/
def pixel (d : Display) (p : Nat) : Bool :=
  if h : p / Config.dispWidth < Config.dispHeight then d[p / Config.dispWidth].getLsbD (p % Config.dispWidth) else false

/-- `disp[p] <- true`. -/
def lightPixel (d : Display) (p : Nat) : Display :=
  if h : p / Config.dispWidth < Config.dispHeight then
    d.set (p / Config.dispWidth) (d[p / Config.dispWidth] ||| (1#64 <<< (p % Config.dispWidth)))
  else d

/-- All pixels false. -/
def blankDisplay : Display := Vector.replicate Config.dispHeight 0

/-! The keypad latch (10_state.md R128). -/

/-- `key[k]` for an index of any size, when there is such a key (46_keypad.md R523). -/
def State.keyAt (s : State) (k : Nat) : Option Bool := if h : k < 16 then some s.key[k] else none

/-- The lowest pressed index, scanning 0 to 15 (46_keypad.md R522). -/
def lowestPressed (key : Vector Bool 16) : Option Reg := (List.finRange 16).find? fun k => key.get k

/-! The generator (44_random.md). -/

/-- random_byte() of 44_random.md R492: one advance, the byte delivered and the state after. -/
def State.randomByte (s : State) : Byte × State := ((Config.rngStep s.rng).2, s.setRng (Config.rngStep s.rng).1)

/-! Faults (60_exceptions.md). -/

/-- The code of a fault (60_exceptions.md R701). -/
def faultCode : Fault → BitVec 3
  | .fetchOutOfBounds => 1
  | .unimplementedInstruction => 2
  | .stackOverflow => 3
  | .stackUnderflow => 4
  | .keyIndexOutOfRange => 5
  | .memoryOutOfBounds => 6
  | .imageTooLarge => 7

/-- A number as a 16-bit field of the fault record, saturated (60_exceptions.md R701). -/
def saturate16 (n : Nat) : Word := BitVec.ofNat 16 (min n 0xFFFF)

/-- The memory that the `n`-th fault leaves: any memory at all. -/
def afterFaultMemory (n : Nat) : Memory := (Config.afterFaultMem n).foldl (fun m c => writeByte m c.1 c.2) []

/-- TAKING A FAULT: `raise F(info)` of 60_exceptions.md R710. The status records the fault (R711); every other element of the state is
unspecified, so it becomes a free value. Nothing is saved and control goes nowhere. -/
def takeFault (f : Fault) (addr opcode : Word) (s : State) : State where
  mem := afterFaultMemory s.freeIndex
  v := Config.afterFaultV s.freeIndex
  i := Config.afterFaultI s.freeIndex
  pc := Config.afterFaultPc s.freeIndex
  stack := Config.afterFaultStack s.freeIndex
  sp := Config.afterFaultSp s.freeIndex
  disp := Config.afterFaultDisp s.freeIndex
  key := Config.afterFaultKey s.freeIndex
  dt := Config.afterFaultDt s.freeIndex
  st := Config.afterFaultSt s.freeIndex
  rng := Config.afterFaultRng s.freeIndex
  status := .faulted f addr opcode
  freeIndex := s.freeIndex + 1

/-- The only way back from a fault, and the RESET command (60_exceptions.md R715, 50_host_interface.md R605): every element of the
spec takes its reset value. The model's own counter goes on, so that a later fault does not repeat its free values. -/
def State.resetFrom (s : State) : State := { State.reset with freeIndex := s.freeIndex }

/-- The address of the instruction being executed: `pc` has already moved past it (10_state.md R111). -/
def State.instrAddr (s : State) : Word := s.pc - 2

/-- An instruction's own fault, recorded with the instruction's address and word (60_exceptions.md R701). -/
def State.raiseAtInstr (s : State) (f : Fault) (i : Instr) : State := takeFault f s.instrAddr (encode i) s

/-- An instruction's data fault, recorded with the data address, saturated, and the word (60_exceptions.md R701). -/
def State.raiseAtData (s : State) (a : Nat) (i : Instr) : State := takeFault .memoryOutOfBounds (saturate16 a) (encode i) s

/-! The fetch (20_memory.md R210) and the decode of a step (50_host_interface.md R620). -/

/-- Fetch(): the word at `pc` and the state with `pc` advanced; none when `pc + 1 > 4095`. -/
def fetch (s : State) : Option (Word × State) :=
  if s.pc.toNat + 1 > 4095 then none
  else some (wordOfBytes (readByte s.mem s.pc.toNat) (readByte s.mem (s.pc.toNat + 1)), s.setPc (s.pc + 2))

/-- Fetch and decode: the instruction to execute and the state to execute it in, or the state in which the step ends with a fault. The
order of the two checks is 60_exceptions.md R714. -/
def fetchDecode (s : State) : Except State (Instr × State) :=
  match fetch s with
  | none => .error (takeFault .fetchOutOfBounds s.pc 0 s)
  | some (w, t) =>
    match decodeWord w with
    | .ok i => .ok (i, t)
    | .error _ => .error (takeFault .unimplementedInstruction t.instrAddr w t)

end Sys2Proof.Machine
end

