-- ==== Sys2Proof/Machine/Operands.lean ====
section
/-!
DEFINITION. The operand forms (30_encoding.md R303, R304): a register is direct (`State.reg`), NN stands as it is, NNN is widened with zeros,
memory is reached only through I with an offset (43_index_memory.md R470).
-/
namespace Sys2Proof.Machine

/-- NNN, zero-extended to 16 bits (30_encoding.md R303). -/
def addrOperand (nnn : Addr12) : Word := nnn.setWidth 16

/-- An 8-bit value zero-extended to 16 bits (00_scope.md R10). -/
def zext16 (b : Byte) : Word := b.setWidth 16

/-- The effective address `I + k`: an unbounded number, never wrapped (43_index_memory.md R470, 20_memory.md R204). -/
def dataAddress (s : State) (k : Nat) : Nat := s.i.toNat + k

/-- CheckRange(base, len) of 43_index_memory.md R478: the lowest out-of-range address of the run, if it has one. -/
def checkRange (base len : Nat) : Option Nat :=
  if len > 0 ∧ base + len - 1 > 4095 then some (max base 4096) else none

/-- An instruction that reaches the `len` bytes from I upward: its own effect when all are in range, else the data fault. -/
def withDataRun (i : Instr) (len : Nat) (s : State) (effect : State) : Result :=
  match checkRange (dataAddress s 0) len with
  | some a => .next (s.raiseAtData a i)
  | none => .next effect

/-- The three decimal digits of a byte, hundreds first (43_index_memory.md R474). -/
def decimalDigits (b : Byte) : List Byte :=
  [BitVec.ofNat 8 (b.toNat / 100), BitVec.ofNat 8 (b.toNat / 10 % 10), BitVec.ofNat 8 (b.toNat % 10)]

/-- V[0] to V[x], lowest first (43_index_memory.md R475). -/
def regsUpTo (s : State) (x : Reg) : List Byte := s.v.toList.take (x.val + 1)

/-- The registers with V[k] loaded from `base + k` for k up to x, the others kept (43_index_memory.md R476). -/
def loadRegs (s : State) (base : Nat) (x : Reg) : Vector Byte 16 :=
  Vector.ofFn fun k : Reg => if k ≤ x then readByte s.mem (base + k.val) else s.reg k

end Sys2Proof.Machine
end

