-- ==== Sys2Proof/Machine/Flags.lean ====
section
/-!
DEFINITION. The results and flags of the arithmetic (42_alu.md R448 to R453): exact on numbers, then narrowed to 8 bits. The only flag is VF, 0x00
or 0x01 (10_state.md R104, R105).
-/
namespace Sys2Proof.Machine

/-- VF's value for a flag (10_state.md R105). -/
def flagByte (c : Bool) : Byte := if c then 1 else 0

/-- trunc_8(a + b) (42_alu.md R442, R448). -/
def sum8 (a b : Byte) : Byte := BitVec.ofNat 8 (a.toNat + b.toNat)

/-- Carry out of bit 7 (42_alu.md R448). -/
def carryOut (a b : Byte) : Bool := a.toNat + b.toNat > 255

/-- trunc_8(a - b + 256) (42_alu.md R449, R451). -/
def diff8 (a b : Byte) : Byte := BitVec.ofNat 8 (a.toNat + 256 - b.toNat)

/-- No borrow in a - b: a is not below b (42_alu.md R449, R451). -/
def noBorrow (a b : Byte) : Bool := ¬ a.toNat < b.toNat

/-- A flag instruction's two writes, in the order of 10_state.md R106: the result to VX, then the flag to VF. -/
def State.setRegFlag (s : State) (x : Reg) (result : Byte) (flag : Bool) : State :=
  (s.setReg x result).setReg vf (flagByte flag)

end Sys2Proof.Machine
end

