-- ==== Sys2Proof/Machine/Alu.lean ====
section
/-!
DEFINITION. Register load, arithmetic, logic and shifts (42_alu.md).
-/
namespace Sys2Proof.Machine

/-- LD Vx, byte (42_alu.md R441). -/
def execLdImm (x : Reg) (nn : Byte) (s : State) : Result := .next (s.setReg x nn)

/-- ADD Vx, byte: no flag (42_alu.md R442). -/
def execAddImm (x : Reg) (nn : Byte) (s : State) : Result := .next (s.setReg x (sum8 (s.reg x) nn))

/-- LD Vx, Vy (42_alu.md R443). -/
def execLdReg (x y : Reg) (s : State) : Result := .next (s.setReg x (s.reg y))

/-- OR Vx, Vy: no flag (42_alu.md R445, R444). -/
def execOrReg (x y : Reg) (s : State) : Result := .next (s.setReg x (s.reg x ||| s.reg y))

/-- AND Vx, Vy: no flag (42_alu.md R446, R444). -/
def execAndReg (x y : Reg) (s : State) : Result := .next (s.setReg x (s.reg x &&& s.reg y))

/-- XOR Vx, Vy: no flag (42_alu.md R447, R444). -/
def execXorReg (x y : Reg) (s : State) : Result := .next (s.setReg x (s.reg x ^^^ s.reg y))

/-- ADD Vx, Vy: VF is the carry (42_alu.md R448). -/
def execAddReg (x y : Reg) (s : State) : Result :=
  .next (s.setRegFlag x (sum8 (s.reg x) (s.reg y)) (carryOut (s.reg x) (s.reg y)))

/-- SUB Vx, Vy: VF is 1 when VX - VY does not borrow (42_alu.md R449). -/
def execSubReg (x y : Reg) (s : State) : Result :=
  .next (s.setRegFlag x (diff8 (s.reg x) (s.reg y)) (noBorrow (s.reg x) (s.reg y)))

/-- SHR Vx: VF is bit 0 of the old VX; VY is not read (42_alu.md R450). -/
def execShr (x _y : Reg) (s : State) : Result :=
  .next (s.setRegFlag x (s.reg x >>> 1) ((s.reg x).getLsbD 0))

/-- SUBN Vx, Vy: VF is 1 when VY - VX does not borrow (42_alu.md R451). -/
def execSubnReg (x y : Reg) (s : State) : Result :=
  .next (s.setRegFlag x (diff8 (s.reg y) (s.reg x)) (noBorrow (s.reg y) (s.reg x)))

/-- SHL Vx: VF is bit 7 of the old VX; VY is not read (42_alu.md R452). -/
def execShl (x _y : Reg) (s : State) : Result :=
  .next (s.setRegFlag x (s.reg x <<< 1) ((s.reg x).getLsbD 7))

end Sys2Proof.Machine
end

