-- ==== Sys2Proof/Machine/Control.lean ====
section
/-!
DEFINITION. Control transfer and no-op (40_control.md). A meaning runs after the fetch has moved `pc` past the instruction (10_state.md R111).
-/
namespace Sys2Proof.Machine

/-- NOP (40_control.md R400). -/
def execNop (s : State) : Result := .next s

/-- RET (40_control.md R401). -/
def execRet (s : State) : Result :=
  match s.pop with
  | none => .next (s.raiseAtInstr .stackUnderflow .ret)
  | some (a, t) => .next (t.setPc a)

/-- JP addr (40_control.md R402). -/
def execJp (nnn : Addr12) (s : State) : Result := .next (s.setPc (addrOperand nnn))

/-- CALL addr (40_control.md R403). -/
def execCall (nnn : Addr12) (s : State) : Result :=
  match s.push s.pc with
  | none => .next (s.raiseAtInstr .stackOverflow (.call nnn))
  | some t => .next (t.setPc (addrOperand nnn))

/-- JP V0, addr (40_control.md R404). -/
def execJpV0 (nnn : Addr12) (s : State) : Result := .next (s.setPc (zext16 (s.reg 0) + addrOperand nnn))

end Sys2Proof.Machine
end

