-- ==== Sys2Proof/Machine/Display.lean ====
section
/-!
DEFINITION. The display instructions and the sprite compositer (45_display.md). Drawing ORs; it never turns a pixel off (R504).
-/
namespace Sys2Proof.Machine

/-- The index of the pixel that a sprite drawn from (x0, y0) covers at row r, column c: each axis wraps by itself (45_display.md R501, R505). -/
def spritePixel (x0 y0 : Byte) (r c : Nat) : Nat :=
  (y0.toNat + r) % Config.dispHeight * Config.dispWidth + (x0.toNat + c) % Config.dispWidth

/-- The pixels that the set bits of sprite row r cover, column 0 first: column c is bit 7 - c (45_display.md R501). -/
def rowPixels (x0 y0 : Byte) (r : Nat) (row : Byte) : List Nat :=
  ((List.range 8).filter fun c => row.getLsbD (7 - c)).map (spritePixel x0 y0 r)

/-- The pixels that the set bits of the sprite rows cover, top row first; the first row is row r. -/
def spritePixels (x0 y0 : Byte) (r : Nat) : List Byte → List Nat
  | [] => []
  | row :: rows => rowPixels x0 y0 r row ++ spritePixels x0 y0 (r + 1) rows

/-- One set sprite bit: a pixel already true is a collision, and the pixel becomes true (45_display.md R501). -/
def drawBit (d : Display × Bool) (p : Nat) : Display × Bool := (lightPixel d.1 p, d.2 || pixel d.1 p)

/-- The compositer: the display after the sprite and whether there was a collision (45_display.md R502). -/
def drawSprite (d : Display) (x0 y0 : Byte) (rows : List Byte) : Display × Bool :=
  (spritePixels x0 y0 0 rows).foldl drawBit (d, false)

/-- CLS (45_display.md R500). -/
def execCls (s : State) : Result := .next (s.setDisp blankDisplay)

/-- The effect of DRW once its run of bytes is known to be in range (45_display.md R501). -/
def drawEffect (x y : Reg) (n : Nat) (s : State) : State :=
  let drawn := drawSprite s.disp (s.reg x) (s.reg y) (readBytes s.mem (dataAddress s 0) n)
  (s.setDisp drawn.1).setReg vf (flagByte drawn.2)

/-- DRW Vx, Vy, nibble (45_display.md R501). -/
def execDrw (x y : Reg) (n : Nibble) (s : State) : Result :=
  withDataRun (.drw x y n) n.toNat s (drawEffect x y n.toNat s)

end Sys2Proof.Machine
end

