-- ==== Sys2Proof/Machine/IndexMemory.lean ====
section
/-!
DEFINITION. The address register and the memory transfers (43_index_memory.md). I is unchanged by the transfers (R477).
-/
namespace Sys2Proof.Machine

/-- LD I, addr (43_index_memory.md R471). -/
def execLdI (nnn : Addr12) (s : State) : Result := .next (s.setI (addrOperand nnn))

/-- ADD I, Vx: wraps at 16 bits, no flag (43_index_memory.md R472). -/
def execAddIVx (x : Reg) (s : State) : Result := .next (s.setI (s.i + zext16 (s.reg x)))

/-- LD F, Vx: the whole of VX times 5 (43_index_memory.md R473). -/
def execLdFVx (x : Reg) (s : State) : Result := .next (s.setI (zext16 (s.reg x) * 5))

/-- LD B, Vx: three decimal digits at I, I+1, I+2 (43_index_memory.md R474). -/
def execLdBVx (x : Reg) (s : State) : Result :=
  withDataRun (.ldBVx x) 3 s (s.setMem (writeBytes s.mem (dataAddress s 0) (decimalDigits (s.reg x))))

/-- LD [I], Vx: V0 to VX into memory from I upward (43_index_memory.md R475). -/
def execLdMemVx (x : Reg) (s : State) : Result :=
  withDataRun (.ldMemVx x) (x.val + 1) s (s.setMem (writeBytes s.mem (dataAddress s 0) (regsUpTo s x)))

/-- LD Vx, [I]: V0 to VX from memory from I upward (43_index_memory.md R476). -/
def execLdVxMem (x : Reg) (s : State) : Result :=
  withDataRun (.ldVxMem x) (x.val + 1) s (s.setV (loadRegs s (dataAddress s 0) x))

end Sys2Proof.Machine
end

