-- ==== Sys2Proof/Machine/Skip.lean ====
section
/-!
DEFINITION. The register-compare skips (41_skip.md).
-/
namespace Sys2Proof.Machine

/-- "Skip next instr": 2 more on the already advanced `pc` when the condition holds (41_skip.md R424). -/
def skipIf (c : Bool) (s : State) : State := if c then s.setPc (s.pc + 2) else s

/-- SE Vx, byte (41_skip.md R420). -/
def execSeImm (x : Reg) (nn : Byte) (s : State) : Result := .next (skipIf (s.reg x == nn) s)

/-- SNE Vx, byte (41_skip.md R421). -/
def execSneImm (x : Reg) (nn : Byte) (s : State) : Result := .next (skipIf (s.reg x != nn) s)

/-- SE Vx, Vy (41_skip.md R422). -/
def execSeReg (x y : Reg) (s : State) : Result := .next (skipIf (s.reg x == s.reg y) s)

/-- SNE Vx, Vy (41_skip.md R423). -/
def execSneReg (x y : Reg) (s : State) : Result := .next (skipIf (s.reg x != s.reg y) s)

end Sys2Proof.Machine
end

