-- ==== Sys2Proof/Machine/Keypad.lean ====
section
/-!
DEFINITION. The keypad instructions (46_keypad.md).
-/
namespace Sys2Proof.Machine

/-- SKP Vx (46_keypad.md R520; VX > 15 faults, R523). -/
def execSkp (x : Reg) (s : State) : Result :=
  match s.keyAt (s.reg x).toNat with
  | none => .next (s.raiseAtInstr .keyIndexOutOfRange (.skp x))
  | some pressed => .next (skipIf pressed s)

/-- SKNP Vx (46_keypad.md R521; VX > 15 faults, R523). -/
def execSknp (x : Reg) (s : State) : Result :=
  match s.keyAt (s.reg x).toNat with
  | none => .next (s.raiseAtInstr .keyIndexOutOfRange (.sknp x))
  | some pressed => .next (skipIf (!pressed) s)

/-- LD Vx, K: the lowest pressed key, or back to this instruction (46_keypad.md R522). -/
def execLdVxK (x : Reg) (s : State) : Result :=
  match lowestPressed s.key with
  | some k => .next (s.setReg x (BitVec.ofNat 8 k.val))
  | none => .next (s.setPc s.instrAddr)

end Sys2Proof.Machine
end

