-- ==== Sys2Proof/Machine/Random.lean ====
section
/-!
DEFINITION. The random instruction (44_random.md).
-/
namespace Sys2Proof.Machine

/-- RND Vx, byte: one advance of the generator, whatever NN is (44_random.md R493). -/
def execRnd (x : Reg) (nn : Byte) (s : State) : Result :=
  .next (s.randomByte.2.setReg x (s.randomByte.1 &&& nn))

end Sys2Proof.Machine
end

