-- ==== Sys2Proof/Machine/Timers.lean ====
section
/-!
DEFINITION. The timer instructions and the timer tick (47_timers.md).
-/
namespace Sys2Proof.Machine

/-- LD Vx, DT (47_timers.md R540). -/
def execLdVxDt (x : Reg) (s : State) : Result := .next (s.setReg x s.dt)

/-- LD DT, Vx (47_timers.md R541). -/
def execLdDtVx (x : Reg) (s : State) : Result := .next (s.setDt (s.reg x))

/-- LD ST, Vx (47_timers.md R542). -/
def execLdStVx (x : Reg) (s : State) : Result := .next (s.setSt (s.reg x))

/-- One count toward zero, never below it (47_timers.md R545). -/
def countDown (b : Byte) : Byte := if b.toNat > 0 then b - 1 else b

/-- TICK() of 47_timers.md R545 on a running core. -/
def countTimers (s : State) : State := (s.setDt (countDown s.dt)).setSt (countDown s.st)

end Sys2Proof.Machine
end

