-- ==== Sys2Proof/Machine/Step.lean ====
section
/-!
DEFINITION. STEP (50_host_interface.md R620), and placing an instruction word where it fetches next.
-/
namespace Sys2Proof.Machine

/-- STEP(): fetch, decode, execute. A faulted core ignores it (60_exceptions.md R712). -/
def step (s : State) : Host.Outcome State Fault Refusal :=
  match s.status with
  | .faulted _ _ _ => .next s
  | .running =>
    match fetchDecode s with
    | .error t => .next t
    | .ok (i, t) => exec i t

/-- `s` with the word of `nbits` bits stored at `pc`, its high byte lower (20_memory.md R210). It stands for the host's LOAD: the step
that follows fetches it when the core runs and `pc` is at most 0xFFE. Log 12. -/
def State.withFetchWord (s : State) (nbits w : Nat) : State :=
  s.setMem (writeBytes s.mem s.pc.toNat [highByte (tableWord nbits w), lowByte (tableWord nbits w)])

end Sys2Proof.Machine
end

