-- ==== Sys2Proof/Machine/Commands.lean ====
section
/-!
DEFINITION. The commands of the host (50_host_interface.md), each atomic, at the level of transactions (R602). The sequence of commands is the
host's free choice and no part of the state (00_scope.md R16, R21).
-/
namespace Sys2Proof.Machine

/-- The commands (50_host_interface.md R602). CONSTRUCT is RESET (R600). -/
inductive Command where
  | reset
  | load (bytes : List Byte)
  | pressKey (index : Nat) (pressed : Bool)
  | step
  | tick
  | getDisplay
deriving DecidableEq, Repr

/-- A command other than RESET has no effect on a faulted core (50_host_interface.md R645). -/
def whenRunning (s t : State) : State :=
  match s.status with
  | .running => t
  | .faulted _ _ _ => s

/-- LOAD(bytes) on a running core (50_host_interface.md R610; too long an image faults, 60_exceptions.md R708). -/
def loadImage (bytes : List Byte) (s : State) : State :=
  if imageFits bytes then s.setMem (writeBytes s.mem Config.progBase bytes)
  else takeFault .imageTooLarge (saturate16 bytes.length) 0 s

/-- PRESS_KEY(index, pressed) on a running core (50_host_interface.md R615; an index above 15 faults, 60_exceptions.md R706). -/
def pressKey (index : Nat) (pressed : Bool) (s : State) : State :=
  if keyInRange index then s.setKey (s.key.setIfInBounds index pressed)
  else takeFault .keyIndexOutOfRange (saturate16 index) 0 s

/-- GET_DISPLAY's view (50_host_interface.md R640). After a fault the display is a free value, so the view is unspecified (R645). -/
def displayView (s : State) : Display := s.disp

/-- The effect of one command (50_host_interface.md R605 to R640). -/
def command (c : Command) (s : State) : Result :=
  match c with
  | .reset => .next s.resetFrom
  | .load bytes => .next (whenRunning s (loadImage bytes s))
  | .pressKey index pressed => .next (whenRunning s (pressKey index pressed s))
  | .step => step s
  | .tick => .next (whenRunning s (countTimers s))
  | .getDisplay => .next s

/-- A sequence of commands, each run to completion before the next (50_host_interface.md R601). -/
def commands : List Command → State → Result
  | [], s => .next s
  | c :: cs, s =>
    match command c s with
    | .next t => commands cs t
    | .fault f => .fault f
    | .refused r => .refused r

/-- The optional output `tone_trigger` of a TICK issued in state `s`: the tick finds ST = 1 (47_timers.md R547). -/
def toneTrigger (s : State) : Bool := s.status == .running && s.st == 1

/-- The host's view of the fault code: 0 while running (60_exceptions.md R701). -/
def statusCode (s : State) : BitVec 3 :=
  match s.status with
  | .running => 0
  | .faulted f _ _ => faultCode f

end Sys2Proof.Machine
end

