-- ==== Sys2Proof/Safety.lean ====
section
/-!
DEFINITION. What counts as a safe run, in the terms that statements use: no fault raised (60_exceptions.md R712), the parked state (70_reset_and_hazards.md
R830), and the invariant of every state that a sequence of commands reaches from reset.
-/
namespace Sys2Proof

open Machine

/-- No fault has been raised. -/
abbrev Running (s : State) : Prop := s.status = .running

/-- The core holds this fault record (60_exceptions.md R711). -/
abbrev FaultedWith (s : State) (f : Fault) (addr opcode : Word) : Prop := s.status = .faulted f addr opcode

/-- The parked state of 70_reset_and_hazards.md R830: running, and the two bytes at `pc` encode a jump to `pc`. -/
abbrev Parked (s : State) : Prop :=
  Running s ∧ s.pc.toNat ≤ 0xFFE ∧
    wordOfBytes (readByte s.mem s.pc.toNat) (readByte s.mem (s.pc.toNat + 1)) = (0x1000 ||| s.pc)

/-- The bounds of 10_state.md R114 on a running core: `pc` is at most 0x10FE, and no return address in use is above 0x1000. -/
abbrev PcBounded (s : State) : Prop :=
  s.pc.toNat ≤ 0x10FE ∧ ∀ k : Fin 16, k.val < s.sp.val → (s.stack.get k).toNat ≤ 0x1000

/-- The invariant: a running core keeps the bounds of 10_state.md R114; and memory is in canonical form, which is the model's own form of
memory and no rule of the spec (log 3). -/
abbrev Invariant (s : State) : Prop := s.mem.wf ∧ (Running s → PcBounded s)

/-- Two states that no command tells apart: the same status and, on a running core, the same value in every element of the spec. The model's
own counter of free values (log 2) may differ, and so may all that a fault left unspecified (60_exceptions.md R710). -/
abbrev SameToTheHost (s t : State) : Prop := s.status = t.status ∧ (Running s → s = { t with freeIndex := s.freeIndex })

end Sys2Proof
end

