-- ==== Sys2Proof/Certificates/Slice0/Obligations.lean ====
section
/-!
DEFINITION. The statements for the provers. Each says which rule of the spec it formalises.

A meaning `exec i s` runs after the fetch, so `s.pc` is the address of the instruction plus 2 (10_state.md R111). An instruction takes its
own fault as a next state (log 1); what a fault leaves beside `status` is a free value (log 2), so a statement about an effect says that the
core still runs, or gives the conditions under which it does. A premise `s.mem.wf` is the model's own canonical form of memory (log 3), which
every step and command keeps (StepKeepsInvariant, CommandsKeepInvariant).
-/

open Sys2Proof Sys2Proof.Machine

/-! What is unchanged. A state that equals another but for one field keeps every other element; memory is said byte by byte as well. -/

/-- Every byte of memory reads as before. -/
abbrev Sys2Proof.KeepsMemory (s t : State) : Prop := ∀ a, readByte t.mem a = readByte s.mem a

/-- Nothing but `pc` changes. -/
abbrev Sys2Proof.OnlyPc (s t : State) : Prop := t = { s with pc := t.pc } ∧ KeepsMemory s t

/-- Nothing but general registers changes. -/
abbrev Sys2Proof.OnlyRegs (s t : State) : Prop := t = { s with v := t.v } ∧ KeepsMemory s t

/-- Nothing but I changes. -/
abbrev Sys2Proof.OnlyIndex (s t : State) : Prop := t = { s with i := t.i } ∧ KeepsMemory s t

/-- Nothing but memory changes, and there no byte outside the `len` bytes from `base`. -/
abbrev Sys2Proof.OnlyBytes (base len : Nat) (s t : State) : Prop :=
  t = { s with mem := t.mem } ∧ ∀ a, a < base ∨ base + len ≤ a → readByte t.mem a = readByte s.mem a

/-- The instruction word at `pc`. -/
abbrev Sys2Proof.wordAtPc (s : State) : Word :=
  wordOfBytes (readByte s.mem s.pc.toNat) (readByte s.mem (s.pc.toNat + 1))

/-! ## Encoding -/

/-- Words written out from the patterns of 30_encoding.md R310, at least one for each family, decode to what they stand for. -/
def Obligations.WordsOfTheMapDecode : Prop :=
  decodeWord 0x0000 = .ok .nop ∧ decodeWord 0x00E0 = .ok .cls ∧ decodeWord 0x00EE = .ok .ret ∧
  decodeWord 0x2210 = .ok (.call 0x210) ∧ decodeWord 0x3F01 = .ok (.seImm 15 0x01) ∧ decodeWord 0x9340 = .ok (.sneReg 3 4) ∧
  decodeWord 0x8127 = .ok (.subnReg 1 2) ∧ decodeWord 0xA300 = .ok (.ldI 0x300) ∧ decodeWord 0xC10F = .ok (.rnd 1 0x0F) ∧
  decodeWord 0xDDDD = .ok (.drw 13 13 13) ∧ decodeWord 0xE5A1 = .ok (.sknp 5) ∧ decodeWord 0xFF65 = .ok (.ldVxMem 15) ∧
  decodeWord 0xF118 = .ok (.ldStVx 1) ∧ decodeWord 0xF002 = .error .groupF

/-- Decoding the word, and the bytes, of any instruction gives it back with every operand (30_encoding.md R334). -/
def Obligations.DecodeOfEncodeIsIdentity : Prop :=
  ∀ i : Instr, decodeWord (encode i) = .ok i ∧ ∀ rest, decode (encodeBytes i ++ rest) = .ok (i, rest)

/-- Encoding what a word decodes to gives the word back: no two words decode alike, the ignored field of SHR and SHL included
(30_encoding.md R312, R316, R334). -/
def Obligations.EncodeOfDecodeIsIdentity : Prop :=
  ∀ (w : Word) (i : Instr), decodeWord w = .ok i → encode i = w

/-- A word decodes exactly when it selects a row of the opcode map (30_encoding.md R310, R311, R315). -/
def Obligations.DecodeAcceptsExactlyTheMap : Prop :=
  ∀ w : Word, (∃ i, decodeWord w = .ok i) ↔ ∃ r ∈ opcodeMap, r.selects w = true

/-- No word selects two rows of the opcode map (30_encoding.md R312). -/
def Obligations.OpcodeRowsAreDisjoint : Prop :=
  ∀ (w : Word) (r q : Row), r ∈ opcodeMap → q ∈ opcodeMap → r.selects w = true → q.selects w = true → r = q

/-! ## The step -/

/-- Fetch(): the two bytes at `pc`, whatever its parity, the first above the second, and `pc` advanced by 2; past the end of memory the step
raises FetchOutOfBounds with `pc` (20_memory.md R210). -/
def Obligations.FetchReadsBigEndianPair : Prop :=
  ∀ s : State,
    (s.pc.toNat + 1 ≤ 4095 → ∃ w t, fetch s = some (w, t) ∧
      w.toNat = 256 * (readByte s.mem s.pc.toNat).toNat + (readByte s.mem (s.pc.toNat + 1)).toNat ∧
      t.pc.toNat = s.pc.toNat + 2 ∧ OnlyPc s t) ∧
    (Running s → s.pc.toNat + 1 > 4095 → ∃ t, step s = .next t ∧ FaultedWith t .fetchOutOfBounds s.pc 0)

/-- A word that selects no row of the opcode map raises UnimplementedInstruction with its address and itself (60_exceptions.md R703). -/
def Obligations.IllegalWordFaults : Prop :=
  ∀ s : State, Running s → s.pc.toNat ≤ 0xFFE → (∀ r ∈ opcodeMap, r.selects (wordAtPc s) = false) →
    ∃ t, step s = .next t ∧ FaultedWith t .unimplementedInstruction s.pc (wordAtPc s)

/-- A running core whose word at `pc` decodes executes that instruction with `pc` moved past it (50_host_interface.md R620). -/
def Obligations.StepRunsDecodedInstruction : Prop :=
  ∀ (s : State) (i : Instr), Running s → s.pc.toNat ≤ 0xFFE → decodeWord (wordAtPc s) = .ok i →
    step s = exec i (s.setPc (s.pc + 2))

/-- Every command of the host, STEP included, completes from every state: nothing is stuck and nothing is refused (60_exceptions.md R745). -/
def Obligations.EveryCommandCompletes : Prop :=
  ∀ (c : Command) (s : State), ∃ t, command c s = .next t

/-- The address in the fault record of an instruction's own fault (60_exceptions.md R701): the lowest data address out of range, or the
instruction's address. -/
def Sys2Proof.recordedAddr (f : Fault) (s : State) : Word :=
  match f with
  | .memoryOutOfBounds => BitVec.ofNat 16 (max s.i.toNat 4096)
  | .fetchOutOfBounds | .unimplementedInstruction | .stackOverflow | .stackUnderflow | .keyIndexOutOfRange | .imageTooLarge => s.pc - 2

/-- The one fault that an instruction may raise, and when (60_exceptions.md R701, R707, R714). -/
def Sys2Proof.ownFault (i : Instr) (s : State) : Option Fault :=
  match i with
  | .call _ => if s.sp = 16 then some .stackOverflow else none
  | .ret => if s.sp = 0 then some .stackUnderflow else none
  | .skp x | .sknp x => if (s.reg x).toNat > 15 then some .keyIndexOutOfRange else none
  | .ldBVx _ => if s.i.toNat + 2 > 4095 then some .memoryOutOfBounds else none
  | .ldMemVx x | .ldVxMem x => if s.i.toNat + x.val > 4095 then some .memoryOutOfBounds else none
  | .drw _ _ n => if n.toNat > 0 ∧ s.i.toNat + n.toNat - 1 > 4095 then some .memoryOutOfBounds else none
  | .nop | .cls | .jp _ | .seImm _ _ | .sneImm _ _ | .seReg _ _ | .ldImm _ _ | .addImm _ _ | .ldReg _ _ | .orReg _ _ | .andReg _ _
  | .xorReg _ _ | .addReg _ _ | .subReg _ _ | .shr _ _ | .subnReg _ _ | .shl _ _ | .sneReg _ _ | .ldI _ | .jpV0 _ | .rnd _ _
  | .ldVxDt _ | .ldVxK _ | .ldDtVx _ | .ldStVx _ | .addIVx _ | .ldFVx _ => none

/-- On a running core an instruction raises exactly its own fault, exactly under its condition, with the record of 60_exceptions.md R701
(R714); otherwise the core still runs after it. -/
def Obligations.InstructionFaultsExactlyWhenListed : Prop :=
  ∀ (i : Instr) (s : State), Running s →
    (∀ f, ownFault i s = some f → ∃ t, exec i s = .next t ∧ FaultedWith t f (recordedAddr f s) (encode i)) ∧
    (ownFault i s = none → ∃ t, exec i s = .next t ∧ Running t)

/-- A faulted core ignores every command but RESET, which makes it run again (60_exceptions.md R712). -/
def Obligations.FaultIsStickyUntilReset : Prop :=
  ∀ (s : State) (f : Fault) (a w : Word), FaultedWith s f a w →
    (∀ c, c ≠ Command.reset → command c s = .next s) ∧ ∃ t, command .reset s = .next t ∧ Running t

/-! ## Control transfer -/

/-- NOP changes nothing, so a step over the word 0x0000 only moves `pc` by 2 (40_control.md R400). -/
def Obligations.NopOnlyAdvances : Prop :=
  ∀ s : State, exec .nop s = .next s ∧
    (Running s → s.pc.toNat ≤ 0xFFE → wordAtPc s = 0 → ∃ t, step s = .next t ∧ t.pc.toNat = s.pc.toNat + 2 ∧ OnlyPc s t)

/-- 1NNN sets `pc` to NNN and BNNN to V0 + NNN, not truncated, and nothing else changes (40_control.md R402, R404). -/
def Obligations.JumpsSetPc : Prop :=
  ∀ (nnn : Addr12) (s : State),
    (∃ t, exec (.jp nnn) s = .next t ∧ t.pc.toNat = nnn.toNat ∧ OnlyPc s t) ∧
    (∃ t, exec (.jpV0 nnn) s = .next t ∧ t.pc.toNat = (s.reg 0).toNat + nnn.toNat ∧ OnlyPc s t)

/-- 2NNN pushes the address after it and jumps; with all 16 entries in use it raises StackOverflow (40_control.md R403). -/
def Obligations.CallPushesReturnAddress : Prop :=
  ∀ (nnn : Addr12) (s : State),
    (∀ k : Fin 16, k.val = s.sp.val → ∃ t, exec (.call nnn) s = .next t ∧ t.pc.toNat = nnn.toNat ∧ t.sp.val = s.sp.val + 1 ∧
      t.stack.get k = s.pc ∧ (∀ j, j ≠ k → t.stack.get j = s.stack.get j) ∧
      t = { s with pc := t.pc, sp := t.sp, stack := t.stack } ∧ KeepsMemory s t) ∧
    (s.sp = 16 → ∃ t, exec (.call nnn) s = .next t ∧
      FaultedWith t .stackOverflow (s.pc - 2) (BitVec.ofNat 16 (0x2000 + nnn.toNat)))

/-- 00EE takes the newest entry off into `pc`, as it stands; with an empty stack it raises StackUnderflow (40_control.md R401). -/
def Obligations.ReturnPopsAddress : Prop :=
  ∀ s : State,
    (∀ k : Fin 16, k.val + 1 = s.sp.val → ∃ t, exec .ret s = .next t ∧ t.pc = s.stack.get k ∧ t.sp.val = k.val ∧
      t = { s with pc := t.pc, sp := t.sp } ∧ KeepsMemory s t) ∧
    (s.sp = 0 → ∃ t, exec .ret s = .next t ∧ FaultedWith t .stackUnderflow (s.pc - 2) 0x00EE)

/-- Pushing values one after the other. -/
def Sys2Proof.pushAll : List Word → State → Option State
  | [], s => some s
  | a :: as, s => (s.push a).bind (pushAll as)

/-- Popping `n` values, the first popped first, with the state after. -/
def Sys2Proof.popAll : Nat → State → Option (List Word × State)
  | 0, s => some ([], s)
  | n + 1, s => s.pop.bind fun p => (popAll n p.2).map fun q => (p.1 :: q.1, q.2)

/-- Pushing N values that fit and popping N gives them in reverse order and leaves the stack pointer where it was, every other element of
the state but stale slots too (10_state.md R122). -/
def Obligations.StackIsLastInFirstOut : Prop :=
  ∀ (as : List Word) (s : State), s.sp.val + as.length ≤ 16 →
    ∃ t u, pushAll as s = some t ∧ t.sp.val = s.sp.val + as.length ∧ popAll as.length t = some (as.reverse, u) ∧
      u = { s with stack := u.stack } ∧ ∀ k : Fin 16, k.val < s.sp.val → u.stack.get k = s.stack.get k

/-- The four register-compare skips: 2 more on `pc` exactly when the condition holds, nothing else (41_skip.md R420 to R423). -/
def Obligations.RegisterSkipsCompare : Prop :=
  ∀ (x y : Reg) (nn : Byte) (s : State),
    (∃ t, exec (.seImm x nn) s = .next t ∧ t.pc = (if s.reg x = nn then s.pc + 2 else s.pc) ∧ OnlyPc s t) ∧
    (∃ t, exec (.sneImm x nn) s = .next t ∧ t.pc = (if s.reg x = nn then s.pc else s.pc + 2) ∧ OnlyPc s t) ∧
    (∃ t, exec (.seReg x y) s = .next t ∧ t.pc = (if s.reg x = s.reg y then s.pc + 2 else s.pc) ∧ OnlyPc s t) ∧
    (∃ t, exec (.sneReg x y) s = .next t ∧ t.pc = (if s.reg x = s.reg y then s.pc else s.pc + 2) ∧ OnlyPc s t)

/-- The jumps 1NNN, BNNN and the six skips change only `pc`; 2NNN and 00EE change only `pc`, `sp` and (2NNN) one stack slot
(40_control.md R405). The core still running says that the instruction raised no fault. -/
def Obligations.JumpsAndSkipsChangeOnlyPc : Prop :=
  ∀ (i : Instr) (s t : State), exec i s = .next t → Running t →
    (((∃ nnn, i = .jp nnn ∨ i = .jpV0 nnn) ∨ (∃ x nn, i = .seImm x nn ∨ i = .sneImm x nn) ∨ (∃ x y, i = .seReg x y ∨ i = .sneReg x y) ∨
        (∃ x, i = .skp x ∨ i = .sknp x)) → OnlyPc s t) ∧
    (i = .ret → t = { s with pc := t.pc, sp := t.sp } ∧ KeepsMemory s t) ∧
    ((∃ nnn, i = .call nnn) → t = { s with pc := t.pc, sp := t.sp, stack := t.stack } ∧ KeepsMemory s t ∧
      ∀ k : Fin 16, k.val ≠ s.sp.val → t.stack.get k = s.stack.get k)

/-! ## Arithmetic and logic -/

/-- The loads and the logic instructions write VX and nothing else, VF included (42_alu.md R441, R443, R445, R446, R447). -/
def Obligations.LoadsAndLogicWriteOneRegister : Prop :=
  ∀ (x y : Reg) (nn : Byte) (s : State),
    (∃ t, exec (.ldImm x nn) s = .next t ∧ (∀ k, t.reg k = if k = x then nn else s.reg k) ∧ OnlyRegs s t) ∧
    (∃ t, exec (.ldReg x y) s = .next t ∧ (∀ k, t.reg k = if k = x then s.reg y else s.reg k) ∧ OnlyRegs s t) ∧
    (∃ t, exec (.orReg x y) s = .next t ∧ (∀ k, t.reg k = if k = x then s.reg x ||| s.reg y else s.reg k) ∧ OnlyRegs s t) ∧
    (∃ t, exec (.andReg x y) s = .next t ∧ (∀ k, t.reg k = if k = x then s.reg x &&& s.reg y else s.reg k) ∧ OnlyRegs s t) ∧
    (∃ t, exec (.xorReg x y) s = .next t ∧ (∀ k, t.reg k = if k = x then s.reg x ^^^ s.reg y else s.reg k) ∧ OnlyRegs s t)

/-- 7XNN adds modulo 256 and writes no flag (42_alu.md R442). -/
def Obligations.AddImmediateWraps : Prop :=
  ∀ (x : Reg) (nn : Byte) (s : State), ∃ t, exec (.addImm x nn) s = .next t ∧
    (∀ k, (t.reg k).toNat = if k = x then ((s.reg x).toNat + nn.toNat) % 256 else (s.reg k).toNat) ∧ OnlyRegs s t

/-- 8XY4 adds modulo 256, then writes the carry to VF, which wins where X = F (42_alu.md R448). -/
def Obligations.AddSetsCarry : Prop :=
  ∀ (x y : Reg) (s : State), ∃ t, exec (.addReg x y) s = .next t ∧
    (∀ k, (t.reg k).toNat =
      if k = 15 then (if (s.reg x).toNat + (s.reg y).toNat > 255 then 1 else 0)
      else if k = x then ((s.reg x).toNat + (s.reg y).toNat) % 256 else (s.reg k).toNat) ∧ OnlyRegs s t

/-- 8XY5 and 8XY7 subtract modulo 256, then write 0 to VF on a borrow and 1 otherwise (42_alu.md R449, R451). -/
def Obligations.SubtractionsSetNotBorrow : Prop :=
  ∀ (x y : Reg) (s : State),
    (∃ t, exec (.subReg x y) s = .next t ∧
      (∀ k, (t.reg k).toNat =
        if k = 15 then (if (s.reg x).toNat < (s.reg y).toNat then 0 else 1)
        else if k = x then ((s.reg x).toNat + 256 - (s.reg y).toNat) % 256 else (s.reg k).toNat) ∧ OnlyRegs s t) ∧
    (∃ t, exec (.subnReg x y) s = .next t ∧
      (∀ k, (t.reg k).toNat =
        if k = 15 then (if (s.reg y).toNat < (s.reg x).toNat then 0 else 1)
        else if k = x then ((s.reg y).toNat + 256 - (s.reg x).toNat) % 256 else (s.reg k).toNat) ∧ OnlyRegs s t)

/-- 8XY6 halves VX and 8XYE doubles it modulo 256, whatever Y is, then VF takes the bit shifted out (42_alu.md R450, R452). -/
def Obligations.ShiftsMoveBitIntoVf : Prop :=
  ∀ (x y : Reg) (s : State),
    (∃ t, exec (.shr x y) s = .next t ∧
      (∀ k, (t.reg k).toNat =
        if k = 15 then (s.reg x).toNat % 2 else if k = x then (s.reg x).toNat / 2 else (s.reg k).toNat) ∧ OnlyRegs s t) ∧
    (∃ t, exec (.shl x y) s = .next t ∧
      (∀ k, (t.reg k).toNat =
        if k = 15 then (s.reg x).toNat / 128 else if k = x then 2 * (s.reg x).toNat % 256 else (s.reg k).toNat) ∧ OnlyRegs s t)

/-- The outcomes of the five flag instructions when VF is an operand, f being VF before (42_alu.md R455). -/
def Obligations.FlagRegisterAsOperand : Prop :=
  ∀ (x y : Reg) (s : State),
    (∃ t, exec (.addReg 15 y) s = .next t ∧ (t.reg 15).toNat = if (s.reg 15).toNat + (s.reg y).toNat > 255 then 1 else 0) ∧
    (x ≠ 15 → ∃ t, exec (.addReg x 15) s = .next t ∧ (t.reg x).toNat = ((s.reg x).toNat + (s.reg 15).toNat) % 256 ∧
      (t.reg 15).toNat = if (s.reg x).toNat + (s.reg 15).toNat > 255 then 1 else 0) ∧
    (∃ t, exec (.addReg 15 15) s = .next t ∧ (t.reg 15).toNat = (s.reg 15).toNat / 128) ∧
    (∃ t, exec (.subReg 15 y) s = .next t ∧ (t.reg 15).toNat = if (s.reg 15).toNat ≥ (s.reg y).toNat then 1 else 0) ∧
    (x ≠ 15 → ∃ t, exec (.subReg x 15) s = .next t ∧ (t.reg x).toNat = ((s.reg x).toNat + 256 - (s.reg 15).toNat) % 256 ∧
      (t.reg 15).toNat = if (s.reg x).toNat ≥ (s.reg 15).toNat then 1 else 0) ∧
    (∃ t, exec (.subReg 15 15) s = .next t ∧ (t.reg 15).toNat = 1) ∧
    (∃ t, exec (.shr 15 y) s = .next t ∧ (t.reg 15).toNat = (s.reg 15).toNat % 2) ∧
    (∃ t, exec (.shl 15 y) s = .next t ∧ (t.reg 15).toNat = (s.reg 15).toNat / 128) ∧
    (∃ t, exec (.subnReg 15 y) s = .next t ∧ (t.reg 15).toNat = if (s.reg y).toNat ≥ (s.reg 15).toNat then 1 else 0) ∧
    (x ≠ 15 → ∃ t, exec (.subnReg x 15) s = .next t ∧ (t.reg x).toNat = ((s.reg 15).toNat + 256 - (s.reg x).toNat) % 256 ∧
      (t.reg 15).toNat = if (s.reg 15).toNat ≥ (s.reg x).toNat then 1 else 0) ∧
    (∃ t, exec (.subnReg 15 15) s = .next t ∧ (t.reg 15).toNat = 1)

/-- The six flag instructions (00_scope.md R19). -/
def Sys2Proof.isFlagInstr (i : Instr) : Bool :=
  match i with
  | .addReg _ _ | .subReg _ _ | .shr _ _ | .subnReg _ _ | .shl _ _ | .drw _ _ _ => true
  | .nop | .cls | .ret | .jp _ | .call _ | .seImm _ _ | .sneImm _ _ | .seReg _ _ | .ldImm _ _ | .addImm _ _ | .ldReg _ _ | .orReg _ _
  | .andReg _ _ | .xorReg _ _ | .sneReg _ _ | .ldI _ | .jpV0 _ | .rnd _ _ | .skp _ | .sknp _ | .ldVxDt _ | .ldVxK _ | .ldDtVx _
  | .ldStVx _ | .addIVx _ | .ldFVx _ | .ldBVx _ | .ldMemVx _ | .ldVxMem _ => false

/-- Every execution of a flag instruction that raises no fault leaves 0x00 or 0x01 in VF (10_state.md R105). -/
def Obligations.FlagInstructionsLeaveZeroOrOne : Prop :=
  ∀ (i : Instr) (s t : State), isFlagInstr i = true → exec i s = .next t → Running t → t.reg 15 = 0 ∨ t.reg 15 = 1

/-- The registers that an instruction writes (10_state.md R103). -/
def Sys2Proof.writesReg (i : Instr) (k : Reg) : Bool :=
  match i with
  | .ldImm x _ | .addImm x _ | .ldReg x _ | .orReg x _ | .andReg x _ | .xorReg x _ | .rnd x _ | .ldVxDt x | .ldVxK x => k = x
  | .addReg x _ | .subReg x _ | .shr x _ | .subnReg x _ | .shl x _ => k = x ∨ k = 15
  | .drw _ _ _ => k = 15
  | .ldVxMem x => k ≤ x
  | .nop | .cls | .ret | .jp _ | .call _ | .seImm _ _ | .sneImm _ _ | .seReg _ _ | .sneReg _ _ | .ldI _ | .jpV0 _ | .skp _ | .sknp _
  | .ldDtVx _ | .ldStVx _ | .addIVx _ | .ldFVx _ | .ldBVx _ | .ldMemVx _ => false

/-- A general register changes only in an instruction that 10_state.md R103 lists as writing it. -/
def Obligations.RegistersChangeOnlyAsListed : Prop :=
  ∀ (i : Instr) (s t : State) (k : Reg), exec i s = .next t → Running t → writesReg i k = false → t.reg k = s.reg k

/-! ## Address register and memory -/

/-- ANNN loads I, FX1E adds VX modulo 2^16 with no flag, FX29 gives 5 times the whole of VX (43_index_memory.md R471, R472, R473). -/
def Obligations.IndexInstructionsComputeI : Prop :=
  ∀ (x : Reg) (nnn : Addr12) (s : State),
    (∃ t, exec (.ldI nnn) s = .next t ∧ t.i.toNat = nnn.toNat ∧ OnlyIndex s t) ∧
    (∃ t, exec (.addIVx x) s = .next t ∧ t.i.toNat = (s.i.toNat + (s.reg x).toNat) % 65536 ∧ OnlyIndex s t) ∧
    (∃ t, exec (.ldFVx x) s = .next t ∧ t.i.toNat = (s.reg x).toNat * 5 ∧ OnlyIndex s t)

/-- FX33 stores the decimal digits of VX at I, I+1, I+2 and nothing else changes; it raises MemoryOutOfBounds when I + 2 > 4095
(43_index_memory.md R474). -/
def Obligations.DecimalDigitsAreStored : Prop :=
  ∀ (x : Reg) (s : State), s.mem.wf →
    (s.i.toNat + 2 ≤ 4095 → ∃ t, exec (.ldBVx x) s = .next t ∧
      (readByte t.mem (dataAddress s 0)).toNat = (s.reg x).toNat / 100 ∧
      (readByte t.mem (dataAddress s 1)).toNat = (s.reg x).toNat / 10 % 10 ∧
      (readByte t.mem (dataAddress s 2)).toNat = (s.reg x).toNat % 10 ∧ OnlyBytes (dataAddress s 0) 3 s t) ∧
    (s.i.toNat + 2 > 4095 → ∃ t, exec (.ldBVx x) s = .next t ∧
      FaultedWith t .memoryOutOfBounds (BitVec.ofNat 16 (max s.i.toNat 4096)) (encode (.ldBVx x)))

/-- FX55 stores V0 to VX at I upward and nothing else changes; it raises MemoryOutOfBounds when I + X > 4095 (43_index_memory.md R475). -/
def Obligations.RegistersAreStored : Prop :=
  ∀ (x : Reg) (s : State), s.mem.wf →
    (s.i.toNat + x.val ≤ 4095 → ∃ t, exec (.ldMemVx x) s = .next t ∧
      (∀ k, k ≤ x → readByte t.mem (dataAddress s k.val) = s.reg k) ∧ OnlyBytes (dataAddress s 0) (x.val + 1) s t) ∧
    (s.i.toNat + x.val > 4095 → ∃ t, exec (.ldMemVx x) s = .next t ∧
      FaultedWith t .memoryOutOfBounds (BitVec.ofNat 16 (max s.i.toNat 4096)) (encode (.ldMemVx x)))

/-- FX65 loads V0 to VX from I upward and nothing else changes; it raises MemoryOutOfBounds when I + X > 4095 (43_index_memory.md R476). -/
def Obligations.RegistersAreLoaded : Prop :=
  ∀ (x : Reg) (s : State),
    (s.i.toNat + x.val ≤ 4095 → ∃ t, exec (.ldVxMem x) s = .next t ∧
      (∀ k, t.reg k = if k ≤ x then readByte s.mem (dataAddress s k.val) else s.reg k) ∧ OnlyRegs s t) ∧
    (s.i.toNat + x.val > 4095 → ∃ t, exec (.ldVxMem x) s = .next t ∧
      FaultedWith t .memoryOutOfBounds (BitVec.ofNat 16 (max s.i.toNat 4096)) (encode (.ldVxMem x)))

/-- What FX55 stored, FX65 with the same X loads back into V0 to VX, whatever the registers hold in between; the registers above VX
keep what they held in between (43_index_memory.md R475, R476). -/
def Obligations.StoreThenLoadRestoresRegisters : Prop :=
  ∀ (x : Reg) (v : Vector Byte 16) (s : State), s.mem.wf → s.i.toNat + x.val ≤ 4095 →
    ∃ t u, exec (.ldMemVx x) s = .next t ∧ exec (.ldVxMem x) (t.setV v) = .next u ∧
      ∀ k, u.reg k = if k ≤ x then s.reg k else v.get k

/-- DXYN, FX33, FX55 and FX65 raise MemoryOutOfBounds exactly when their run of bytes passes address 4095 (60_exceptions.md R707). -/
def Obligations.DataRunsAreBoundsChecked : Prop :=
  ∀ (x y : Reg) (n : Nibble) (s t : State), Running s →
    (exec (.ldBVx x) s = .next t → ((∃ a w, FaultedWith t .memoryOutOfBounds a w) ↔ s.i.toNat + 2 > 4095)) ∧
    (exec (.ldMemVx x) s = .next t → ((∃ a w, FaultedWith t .memoryOutOfBounds a w) ↔ s.i.toNat + x.val > 4095)) ∧
    (exec (.ldVxMem x) s = .next t → ((∃ a w, FaultedWith t .memoryOutOfBounds a w) ↔ s.i.toNat + x.val > 4095)) ∧
    (exec (.drw x y n) s = .next t →
      ((∃ a w, FaultedWith t .memoryOutOfBounds a w) ↔ n.toNat > 0 ∧ s.i.toNat + n.toNat - 1 > 4095))

/-- An instruction word that FX55 stores is what the next fetch reads, with nothing in between (20_memory.md R232). -/
def Obligations.StoreIsSeenByNextFetch : Prop :=
  ∀ (x j k : Reg) (s : State), s.mem.wf → s.i.toNat + x.val ≤ 4095 → j.val + 1 = k.val → k ≤ x →
    s.pc.toNat = dataAddress s j.val →
    ∃ t w u, exec (.ldMemVx x) s = .next t ∧ fetch t = some (w, u) ∧ w = wordOfBytes (s.reg j) (s.reg k)

/-! ## Random numbers -/

/-- CXNN advances the generator once, writes the byte masked by NN to VX, and changes nothing else (44_random.md R493). The byte is
that of the open parameter `Config.rngStep`, whatever it is (log 6). -/
def Obligations.RandomMasksOneByte : Prop :=
  ∀ (x : Reg) (nn : Byte) (s : State), ∃ t, exec (.rnd x nn) s = .next t ∧
    t.rng = (Config.rngStep s.rng).1 ∧ (∀ k, t.reg k = if k = x then (Config.rngStep s.rng).2 &&& nn else s.reg k) ∧
    t.reg x &&& ~~~nn = 0 ∧ t = { s with v := t.v, rng := t.rng } ∧ KeepsMemory s t

/-! ## Display -/

/-- 00E0 turns every pixel off and changes nothing else (45_display.md R500). -/
def Obligations.ClearTurnsEveryPixelOff : Prop :=
  ∀ s : State, ∃ t, exec .cls s = .next t ∧ (∀ p, pixel t.disp p = false) ∧ t = { s with disp := t.disp } ∧ KeepsMemory s t

/-- A set bit of the sprite of `n` rows at I, drawn at (VX, VY), covers pixel p (45_display.md R501: row r, column c is bit 7 - c). -/
def Sys2Proof.Covers (s : State) (x y : Reg) (n p : Nat) : Prop :=
  ∃ r < n, ∃ c < 8, (readByte s.mem (dataAddress s r)).getLsbD (7 - c) = true ∧
    p = ((s.reg y).toNat + r) % 32 * 64 + ((s.reg x).toNat + c) % 64

/-- DXYN lights exactly the pixels its set bits cover, keeps the others, sets VF to whether one of them was true before, and changes
nothing else; it raises MemoryOutOfBounds when a row's address passes 4095 (45_display.md R501, R507). -/
def Obligations.DrawLightsCoveredPixels : Prop :=
  ∀ (x y : Reg) (n : Nibble) (s : State),
    (n.toNat = 0 ∨ s.i.toNat + n.toNat - 1 ≤ 4095 → ∃ t, exec (.drw x y n) s = .next t ∧
      (∀ p, pixel t.disp p = true ↔ pixel s.disp p = true ∨ Covers s x y n.toNat p) ∧
      ((∃ p, Covers s x y n.toNat p ∧ pixel s.disp p = true) → t.reg 15 = 1) ∧
      ((¬ ∃ p, Covers s x y n.toNat p ∧ pixel s.disp p = true) → t.reg 15 = 0) ∧
      (∀ k, k ≠ 15 → t.reg k = s.reg k) ∧ t = { s with disp := t.disp, v := t.v } ∧ KeepsMemory s t) ∧
    (n.toNat > 0 → s.i.toNat + n.toNat - 1 > 4095 → ∃ t, exec (.drw x y n) s = .next t ∧
      FaultedWith t .memoryOutOfBounds (BitVec.ofNat 16 (max s.i.toNat 4096)) (encode (.drw x y n)))

/-- DXY0 reads nothing, so it cannot fault, changes no pixel and writes 0 to VF, wherever I points (45_display.md R506). -/
def Obligations.DrawOfNoRowsClearsVf : Prop :=
  ∀ (x y : Reg) (s : State), ∃ t, exec (.drw x y 0) s = .next t ∧
    (∀ p, pixel t.disp p = pixel s.disp p) ∧ (∀ k, t.reg k = if k = 15 then 0 else s.reg k) ∧ OnlyRegs s t

/-- Drawing the same sprite twice at the same place: the second draw keeps every pixel and sets VF exactly when the sprite has a set bit
(45_display.md R504). VX and VY are not VF, which the first draw overwrites. -/
def Obligations.RedrawKeepsPixelsAndCollides : Prop :=
  ∀ (x y : Reg) (n : Nibble) (s t : State), x ≠ 15 → y ≠ 15 → exec (.drw x y n) s = .next t → Running t →
    ∃ u, exec (.drw x y n) t = .next u ∧ (∀ p, pixel u.disp p = pixel t.disp p) ∧
      (u.reg 15 = 1 ↔ ∃ p, Covers s x y n.toNat p) ∧ (∀ p, Covers s x y n.toNat p → pixel u.disp p = true)

/-- The display changes only by CLS and DXYN, and a pixel goes off only by CLS (45_display.md R504, R511). -/
def Obligations.PixelsGoOffOnlyByClear : Prop :=
  ∀ (i : Instr) (s t : State), exec i s = .next t → Running t →
    (t.disp ≠ s.disp → i = .cls ∨ ∃ x y n, i = .drw x y n) ∧
    (∀ p, pixel s.disp p = true → pixel t.disp p = false → i = .cls)

/-- GET_DISPLAY changes nothing, and in its view pixel (x, y) is `disp[y * 64 + x]` (10_state.md R127, 50_host_interface.md R640). -/
def Obligations.DisplayViewIsRowMajor : Prop :=
  ∀ s : State, command .getDisplay s = .next s ∧
    ∀ (y : Fin 32) (x : Nat), x < 64 → ((displayView s).get y).getLsbD x = pixel s.disp (y.val * 64 + x)

/-! ## Keypad -/

/-- EX9E and EXA1 skip by the latch of the key that VX names, and raise KeyIndexOutOfRange when VX > 15 (46_keypad.md R520, R521). -/
def Obligations.KeySkipsFollowTheLatch : Prop :=
  ∀ (x : Reg) (s : State),
    (∀ k : Fin 16, k.val = (s.reg x).toNat →
      (∃ t, exec (.skp x) s = .next t ∧ t.pc = (if s.key.get k = true then s.pc + 2 else s.pc) ∧ OnlyPc s t) ∧
      (∃ t, exec (.sknp x) s = .next t ∧ t.pc = (if s.key.get k = true then s.pc else s.pc + 2) ∧ OnlyPc s t)) ∧
    ((s.reg x).toNat > 15 →
      (∃ t, exec (.skp x) s = .next t ∧ FaultedWith t .keyIndexOutOfRange (s.pc - 2) (encode (.skp x))) ∧
      (∃ t, exec (.sknp x) s = .next t ∧ FaultedWith t .keyIndexOutOfRange (s.pc - 2) (encode (.sknp x))))

/-- FX0A writes the lowest pressed index to VX, or moves `pc` back by 2 when no key is pressed (46_keypad.md R522). -/
def Obligations.KeyWaitTakesLowestKey : Prop :=
  ∀ (x : Reg) (s : State),
    (∀ k : Fin 16, s.key.get k = true → (∀ j, j < k → s.key.get j = false) →
      ∃ t, exec (.ldVxK x) s = .next t ∧ (t.reg x).toNat = k.val ∧ (∀ j, j ≠ x → t.reg j = s.reg j) ∧ OnlyRegs s t) ∧
    ((∀ k, s.key.get k = false) → ∃ t, exec (.ldVxK x) s = .next t ∧ t.pc = s.pc - 2 ∧ OnlyPc s t)

/-- A step over FX0A with no key pressed changes nothing at all (46_keypad.md R525). -/
def Obligations.KeyWaitPollsInPlace : Prop :=
  ∀ (x : Reg) (s : State), Running s → s.pc.toNat ≤ 0xFFE → wordAtPc s = encode (.ldVxK x) → (∀ k, s.key.get k = false) →
    step s = .next s

/-! ## Timers -/

/-- FX07 reads DT, FX15 writes DT, FX18 writes ST, and nothing else changes (47_timers.md R540, R541, R542). -/
def Obligations.TimerInstructionsMoveBytes : Prop :=
  ∀ (x : Reg) (s : State),
    (∃ t, exec (.ldVxDt x) s = .next t ∧ (∀ k, t.reg k = if k = x then s.dt else s.reg k) ∧ OnlyRegs s t) ∧
    (∃ t, exec (.ldDtVx x) s = .next t ∧ t.dt = s.reg x ∧ t = { s with dt := t.dt } ∧ KeepsMemory s t) ∧
    (∃ t, exec (.ldStVx x) s = .next t ∧ t.st = s.reg x ∧ t = { s with st := t.st } ∧ KeepsMemory s t)

/-- TICK takes each timer one down, not below 0, and changes nothing else (47_timers.md R545). -/
def Obligations.TickCountsDown : Prop :=
  ∀ s : State, Running s → ∃ t, command .tick s = .next t ∧ t.dt.toNat = s.dt.toNat - 1 ∧ t.st.toNat = s.st.toNat - 1 ∧
    t = { s with dt := t.dt, st := t.st } ∧ KeepsMemory s t

/-- A timer that holds n reaches 0 after exactly n TICKs and stays there (47_timers.md R546). -/
def Obligations.TimersReachZeroAfterExactlyNTicks : Prop :=
  ∀ (n : Nat) (s : State), Running s → ∃ t, commands (List.replicate n .tick) s = .next t ∧
    t.dt.toNat = s.dt.toNat - n ∧ t.st.toNat = s.st.toNat - n

/-- The tone trigger is true for a TICK exactly when that TICK takes ST from 1 to 0 (47_timers.md R547). -/
def Obligations.ToneTriggersOnLastTick : Prop :=
  ∀ s : State, Running s →
    (toneTrigger s = true ↔ s.st.toNat = 1) ∧
    (toneTrigger s = true ↔ s.st.toNat > 0 ∧ ∃ t, command .tick s = .next t ∧ t.st.toNat = 0)

/-! ## The host and the whole machine -/

/-- RESET, and construction, leave every element of the state at the value of 10_state.md R140. The values of GLYPH_TABLE and RNG_SEED are
open parameters (logs 4 and 5); the model's own `freeIndex` is no element of the spec's state. -/
def Obligations.ResetSetsEveryElement : Prop :=
  ∀ s t : State, t = State.reset ∨ command .reset s = .next t →
    (∀ (a : Nat) (h : a < 80), readByte t.mem a = Config.glyphTable.get ⟨a, h⟩) ∧ (∀ a, 80 ≤ a → readByte t.mem a = 0) ∧
    (∀ k, t.reg k = 0) ∧ t.i = 0 ∧ t.pc = 0x200 ∧ (∀ k, t.stack.get k = 0) ∧ t.sp = 0 ∧ (∀ p, pixel t.disp p = false) ∧
    (∀ k, t.key.get k = false) ∧ t.dt = 0 ∧ t.st = 0 ∧ t.rng = Config.rngSeed ∧ Running t

/-- LOAD writes exactly the image's bytes from 0x200 and nothing else; an image of more than 3584 bytes raises ImageTooLarge
(50_host_interface.md R610). -/
def Obligations.LoadWritesTheImage : Prop :=
  ∀ (bytes : List Byte) (s : State), Running s → s.mem.wf →
    (bytes.length ≤ 3584 → ∃ t, command (.load bytes) s = .next t ∧
      (∀ (k : Nat) (h : k < bytes.length), readByte t.mem (0x200 + k) = bytes[k]) ∧ OnlyBytes 0x200 bytes.length s t) ∧
    (bytes.length > 3584 → ∃ t, command (.load bytes) s = .next t ∧
      FaultedWith t .imageTooLarge (BitVec.ofNat 16 (min bytes.length 0xFFFF)) 0)

/-- PRESS_KEY sets one flag of the latch and nothing else; an index above 15 raises KeyIndexOutOfRange with the index
(50_host_interface.md R615). An index that the 16-bit record cannot hold is recorded saturated, the model's choice (log 10), and left open here. -/
def Obligations.PressKeySetsOneFlag : Prop :=
  ∀ (index : Nat) (pressed : Bool) (s : State), Running s →
    (index ≤ 15 → ∃ t, command (.pressKey index pressed) s = .next t ∧
      (∀ k : Fin 16, t.key.get k = if k.val = index then pressed else s.key.get k) ∧ t = { s with key := t.key } ∧ KeepsMemory s t) ∧
    (index > 15 → ∃ t a, command (.pressKey index pressed) s = .next t ∧ FaultedWith t .keyIndexOutOfRange a 0 ∧
      (index ≤ 0xFFFF → a.toNat = index))

/-- After RESET and LOAD of an image that begins with an instruction, the first STEP executes that instruction
(70_reset_and_hazards.md R805, R807). -/
def Obligations.BootRunsTheFirstInstruction : Prop :=
  ∀ (i : Instr) (rest : List Byte) (s : State), rest.length ≤ 3582 →
    ∃ t, commands [.reset, .load (encodeBytes i ++ rest)] s = .next t ∧ step t = exec i (t.setPc 0x202)

/-- In a parked state every STEP leaves the whole state unchanged (70_reset_and_hazards.md R830). -/
def Obligations.ParkedStateIsAFixedPoint : Prop :=
  ∀ s : State, Parked s → step s = .next s

/-- Each special element of the state, and memory, is written only by the instructions that 10_state.md R135 and 20_memory.md R201 list; the
keypad latch by none (10_state.md R128). -/
def Obligations.SpecialStateWrittenOnlyAsListed : Prop :=
  ∀ (i : Instr) (s t : State), exec i s = .next t → Running t →
    (t.i ≠ s.i → (∃ nnn, i = .ldI nnn) ∨ (∃ x, i = .addIVx x) ∨ ∃ x, i = .ldFVx x) ∧
    ((t.sp ≠ s.sp ∨ t.stack ≠ s.stack) → i = .ret ∨ ∃ nnn, i = .call nnn) ∧
    (t.dt ≠ s.dt → ∃ x, i = .ldDtVx x) ∧ (t.st ≠ s.st → ∃ x, i = .ldStVx x) ∧
    (t.rng ≠ s.rng → ∃ x nn, i = .rnd x nn) ∧ t.key = s.key ∧
    ((∃ a, readByte t.mem a ≠ readByte s.mem a) → (∃ x, i = .ldBVx x) ∨ ∃ x, i = .ldMemVx x)

/-- The generator state changes by no command but RESET and STEP (44_random.md R496). -/
def Obligations.HostCommandsKeepTheGenerator : Prop :=
  ∀ (c : Command) (s t : State), c ≠ .reset → c ≠ .step → command c s = .next t → Running t → t.rng = s.rng

/-- The invariant holds after reset: `pc` is at most 0x10FE and no return address in use is above 0x1000 (10_state.md R140, R114), and memory
is in canonical form, which is the model's own form and no rule of the spec (log 3). -/
def Obligations.InvariantHoldsAtReset : Prop := Invariant State.reset

/-- Every step keeps the invariant: on a running core `pc` stays at most 0x10FE and every return address in use at most 0x1000
(10_state.md R114), and memory stays in canonical form, which is the model's own form and no rule of the spec (log 3). -/
def Obligations.StepKeepsInvariant : Prop :=
  ∀ s t : State, Invariant s → step s = .next t → Invariant t

/-- Every sequence of host commands keeps the invariant, so it holds in every state that is reached from reset: the bounds of
10_state.md R114, and the canonical form of memory, which is the model's own and no rule of the spec (log 3). -/
def Obligations.CommandsKeepInvariant : Prop :=
  ∀ (cs : List Command) (s t : State), Invariant s → commands cs s = .next t → Invariant t

/-- After a RESET, whatever came before, a command sequence ends as it ends from construction: in the same status, and on a running core
in the same state, so the generator delivers the same bytes again and nothing that a fault left unspecified is seen
(10_state.md R143, 44_random.md R496). The model's own counter of free values (log 2) is no element of the spec's state. -/
def Obligations.RunsAfterResetReproduce : Prop :=
  ∀ (cs : List Command) (s t : State), commands cs s.resetFrom = .next t →
    ∃ u, commands cs State.reset = .next u ∧ t.status = u.status ∧ (Running t → t = { u with freeIndex := t.freeIndex })

/-- The fault code that the host sees is 0 exactly while the core runs, and 1 to 7 for the seven faults, in 3 bits (10_state.md R130,
60_exceptions.md R701). -/
def Obligations.StatusCodesAreNumbered : Prop :=
  ∀ (s : State) (a w : Word),
    (statusCode s = 0 ↔ Running s) ∧
    (FaultedWith s .fetchOutOfBounds a w → statusCode s = 1) ∧ (FaultedWith s .unimplementedInstruction a w → statusCode s = 2) ∧
    (FaultedWith s .stackOverflow a w → statusCode s = 3) ∧ (FaultedWith s .stackUnderflow a w → statusCode s = 4) ∧
    (FaultedWith s .keyIndexOutOfRange a w → statusCode s = 5) ∧ (FaultedWith s .memoryOutOfBounds a w → statusCode s = 6) ∧
    (FaultedWith s .imageTooLarge a w → statusCode s = 7)

/-- No command tells two states apart that have the same status and, while running, differ at most in the model's own counter of free
values (log 2): the two states after it are alike again. So nothing a fault left unspecified comes back to a running core
(60_exceptions.md R710, R712, 00_scope.md R22). -/
def Obligations.CommandsKeepStatesAlike : Prop :=
  ∀ (c : Command) (s t s' : State), SameToTheHost s t → command c s = .next s' →
    ∃ t', command c t = .next t' ∧ SameToTheHost s' t'
end

