-- ==== Sys2Proof/Laws/Memory.lean ====
section
/-!
SUPPORT. Memory: a byte written reads back, every other byte is kept, every operation keeps the canonical form.
-/
namespace Sys2Proof.Machine

theorem Memory.wf_nil : Memory.wf [] := ⟨List.Pairwise.nil, fun _ h => absurd h List.not_mem_nil⟩

theorem readByte_unlisted {m : Memory} {a : Nat} (h : ∀ c ∈ m, c.1 ≠ a) : readByte m a = background a := by
  induction m with
  | nil => rfl
  | cons c m ih =>
    simp only [List.mem_cons, forall_eq_or_imp] at h
    simp only [readByte, if_neg h.1]
    exact ih h.2

theorem mem_putCell {m : Memory} {a : Nat} {b : Byte} {c : Host.Cell} (h : c ∈ putCell m a b) :
    c ∈ m ∨ (c = (a, b) ∧ b ≠ background a) := by
  induction m with
  | nil =>
    simp only [putCell] at h
    split at h <;> simp_all
  | cons d m ih =>
    simp only [putCell] at h
    split at h
    · rcases List.mem_cons.1 h with rfl | h
      · simp
      · rcases ih h with h | h <;> simp_all
    · split at h <;> split at h <;> simp_all <;> tauto

theorem readByte_putCell {m : Memory} (hs : m.Pairwise fun c d => c.1 < d.1) (a : Nat) (b : Byte) (k : Nat) :
    readByte (putCell m a b) k = if k = a then b else readByte m k := by
  induction m with
  | nil => simp only [putCell]; split <;> simp only [readByte] <;> grind
  | cons d m ih =>
    rw [List.pairwise_cons] at hs
    obtain ⟨hd, hs⟩ := hs
    have above : ∀ j, j ≤ d.1 → readByte m j = background j := fun j hj =>
      readByte_unlisted fun c hc => by have := hd c hc; omega
    simp only [putCell]
    split
    · simp only [readByte, ih hs]; grind
    · split
      · split <;> simp only [readByte] <;> grind
      · split <;> simp only [readByte] <;> grind

theorem putCell_wf {m : Memory} (h : m.wf) {a : Nat} (ha : a < Config.memSize) (b : Byte) : (putCell m a b).wf := by
  refine ⟨?_, fun c hc => ?_⟩
  · obtain ⟨hs, -⟩ := h
    induction m with
    | nil => simp only [putCell]; split <;> simp
    | cons d m ih =>
      rw [List.pairwise_cons] at hs
      obtain ⟨hd, hs⟩ := hs
      simp only [putCell]
      split
      · refine List.pairwise_cons.2 ⟨fun c hc => ?_, ih hs⟩
        rcases mem_putCell hc with hc | ⟨rfl, -⟩
        · exact hd c hc
        · assumption
      · split <;> split <;> simp_all <;> grind
  · rcases mem_putCell hc with hc | ⟨rfl, hb⟩
    · exact h.2 c hc
    · exact ⟨ha, hb⟩

/-- Writing a byte keeps the canonical form. -/
theorem writeByte_wf {m : Memory} (h : m.wf) (a : Nat) (b : Byte) : (writeByte m a b).wf := by
  unfold writeByte; split
  · exact putCell_wf h ‹_› b
  · exact h

/-- Writing bytes keeps the canonical form. -/
theorem writeBytes_wf {m : Memory} (h : m.wf) (base : Nat) (bs : List Byte) : (writeBytes m base bs).wf := by
  induction bs generalizing m base with
  | nil => exact h
  | cons b bs ih => exact ih (writeByte_wf h _ _) _

/-- A byte written in the address space reads back, and every other byte is kept (20_memory.md R206). -/
theorem readByte_writeByte {m : Memory} (h : m.wf) {a : Nat} (ha : a < Config.memSize) (b : Byte) (k : Nat) :
    readByte (writeByte m a b) k = if k = a then b else readByte m k := by
  unfold writeByte; rw [if_pos ha]; exact readByte_putCell h.1 a b k

/-- Bytes written in the address space read back, and every byte outside the run is kept. -/
theorem readByte_writeBytes {m : Memory} (h : m.wf) (base : Nat) (bs : List Byte) (hb : base + bs.length ≤ Config.memSize) (k : Nat) :
    readByte (writeBytes m base bs) k = if base ≤ k then (bs[k - base]?).getD (readByte m k) else readByte m k := by
  induction bs generalizing m base with
  | nil => simp [writeBytes]
  | cons b bs ih =>
    simp only [List.length_cons] at hb
    rw [writeBytes, ih (writeByte_wf h _ _) _ (by omega), readByte_writeByte h (by omega)]
    rcases Nat.lt_trichotomy k base with hk | rfl | hk
    · simp [show ¬ base + 1 ≤ k by omega, show ¬ base ≤ k by omega, show k ≠ base by omega]
    · simp
    · obtain ⟨j, rfl⟩ : ∃ j, k = base + 1 + j := ⟨k - (base + 1), by omega⟩
      simp [show base ≤ base + 1 + j by omega, show base + 1 + j ≠ base by omega, show base + 1 + j - base = j + 1 by omega]

theorem readBytes_length (m : Memory) (base n : Nat) : (readBytes m base n).length = n := by
  induction n generalizing base with
  | zero => rfl
  | succ n ih => simp [readBytes, ih]

theorem getElem?_readBytes (m : Memory) (base n r : Nat) :
    (readBytes m base n)[r]? = if r < n then some (readByte m (base + r)) else none := by
  induction n generalizing base r with
  | zero => simp [readBytes]
  | succ n ih =>
    cases r with
    | zero => simp [readBytes]
    | succ r => simp [readBytes, ih, Nat.add_assoc, Nat.add_comm 1 r]

/-- The memory a fault leaves is in canonical form. -/
theorem afterFaultMemory_wf (n : Nat) : (afterFaultMemory n).wf := by
  unfold afterFaultMemory
  generalize Config.afterFaultMem n = cs
  suffices ∀ m : Memory, m.wf → (cs.foldl (fun m c => writeByte m c.1 c.2) m).wf from this [] Memory.wf_nil
  induction cs with
  | nil => exact fun _ h => h
  | cons c cs ih => exact fun m h => ih _ (writeByte_wf h _ _)

theorem reset_mem_wf : State.reset.mem.wf := Memory.wf_nil

end Sys2Proof.Machine
end

