-- ==== Sys2Proof/Laws/State.lean ====
section
/-!
SUPPORT. One lemma for each field of the state under each writer of Machine/Ops.lean, true by unfolding, so that no later proof unfolds a
record update.
-/
namespace Sys2Proof.Machine.State

variable (s : State)

/-! setReg -/

@[simp] theorem setReg_mem (x : Reg) (b : Byte) : (s.setReg x b).mem = s.mem := rfl
@[simp] theorem setReg_v (x : Reg) (b : Byte) : (s.setReg x b).v = s.v.set x b := rfl
@[simp] theorem setReg_i (x : Reg) (b : Byte) : (s.setReg x b).i = s.i := rfl
@[simp] theorem setReg_pc (x : Reg) (b : Byte) : (s.setReg x b).pc = s.pc := rfl
@[simp] theorem setReg_stack (x : Reg) (b : Byte) : (s.setReg x b).stack = s.stack := rfl
@[simp] theorem setReg_sp (x : Reg) (b : Byte) : (s.setReg x b).sp = s.sp := rfl
@[simp] theorem setReg_disp (x : Reg) (b : Byte) : (s.setReg x b).disp = s.disp := rfl
@[simp] theorem setReg_key (x : Reg) (b : Byte) : (s.setReg x b).key = s.key := rfl
@[simp] theorem setReg_dt (x : Reg) (b : Byte) : (s.setReg x b).dt = s.dt := rfl
@[simp] theorem setReg_st (x : Reg) (b : Byte) : (s.setReg x b).st = s.st := rfl
@[simp] theorem setReg_rng (x : Reg) (b : Byte) : (s.setReg x b).rng = s.rng := rfl
@[simp] theorem setReg_status (x : Reg) (b : Byte) : (s.setReg x b).status = s.status := rfl
@[simp] theorem setReg_freeIndex (x : Reg) (b : Byte) : (s.setReg x b).freeIndex = s.freeIndex := rfl

/-! setV -/

@[simp] theorem setV_mem (v : Vector Byte 16) : (s.setV v).mem = s.mem := rfl
@[simp] theorem setV_v (v : Vector Byte 16) : (s.setV v).v = v := rfl
@[simp] theorem setV_i (v : Vector Byte 16) : (s.setV v).i = s.i := rfl
@[simp] theorem setV_pc (v : Vector Byte 16) : (s.setV v).pc = s.pc := rfl
@[simp] theorem setV_stack (v : Vector Byte 16) : (s.setV v).stack = s.stack := rfl
@[simp] theorem setV_sp (v : Vector Byte 16) : (s.setV v).sp = s.sp := rfl
@[simp] theorem setV_disp (v : Vector Byte 16) : (s.setV v).disp = s.disp := rfl
@[simp] theorem setV_key (v : Vector Byte 16) : (s.setV v).key = s.key := rfl
@[simp] theorem setV_dt (v : Vector Byte 16) : (s.setV v).dt = s.dt := rfl
@[simp] theorem setV_st (v : Vector Byte 16) : (s.setV v).st = s.st := rfl
@[simp] theorem setV_rng (v : Vector Byte 16) : (s.setV v).rng = s.rng := rfl
@[simp] theorem setV_status (v : Vector Byte 16) : (s.setV v).status = s.status := rfl
@[simp] theorem setV_freeIndex (v : Vector Byte 16) : (s.setV v).freeIndex = s.freeIndex := rfl

/-! setPc -/

@[simp] theorem setPc_mem (a : Word) : (s.setPc a).mem = s.mem := rfl
@[simp] theorem setPc_v (a : Word) : (s.setPc a).v = s.v := rfl
@[simp] theorem setPc_i (a : Word) : (s.setPc a).i = s.i := rfl
@[simp] theorem setPc_pc (a : Word) : (s.setPc a).pc = a := rfl
@[simp] theorem setPc_stack (a : Word) : (s.setPc a).stack = s.stack := rfl
@[simp] theorem setPc_sp (a : Word) : (s.setPc a).sp = s.sp := rfl
@[simp] theorem setPc_disp (a : Word) : (s.setPc a).disp = s.disp := rfl
@[simp] theorem setPc_key (a : Word) : (s.setPc a).key = s.key := rfl
@[simp] theorem setPc_dt (a : Word) : (s.setPc a).dt = s.dt := rfl
@[simp] theorem setPc_st (a : Word) : (s.setPc a).st = s.st := rfl
@[simp] theorem setPc_rng (a : Word) : (s.setPc a).rng = s.rng := rfl
@[simp] theorem setPc_status (a : Word) : (s.setPc a).status = s.status := rfl
@[simp] theorem setPc_freeIndex (a : Word) : (s.setPc a).freeIndex = s.freeIndex := rfl
@[simp] theorem setPc_reg (a : Word) (y : Reg) : (s.setPc a).reg y = s.reg y := rfl

/-! setI -/

@[simp] theorem setI_mem (a : Word) : (s.setI a).mem = s.mem := rfl
@[simp] theorem setI_v (a : Word) : (s.setI a).v = s.v := rfl
@[simp] theorem setI_i (a : Word) : (s.setI a).i = a := rfl
@[simp] theorem setI_pc (a : Word) : (s.setI a).pc = s.pc := rfl
@[simp] theorem setI_stack (a : Word) : (s.setI a).stack = s.stack := rfl
@[simp] theorem setI_sp (a : Word) : (s.setI a).sp = s.sp := rfl
@[simp] theorem setI_disp (a : Word) : (s.setI a).disp = s.disp := rfl
@[simp] theorem setI_key (a : Word) : (s.setI a).key = s.key := rfl
@[simp] theorem setI_dt (a : Word) : (s.setI a).dt = s.dt := rfl
@[simp] theorem setI_st (a : Word) : (s.setI a).st = s.st := rfl
@[simp] theorem setI_rng (a : Word) : (s.setI a).rng = s.rng := rfl
@[simp] theorem setI_status (a : Word) : (s.setI a).status = s.status := rfl
@[simp] theorem setI_freeIndex (a : Word) : (s.setI a).freeIndex = s.freeIndex := rfl
@[simp] theorem setI_reg (a : Word) (y : Reg) : (s.setI a).reg y = s.reg y := rfl

/-! setMem -/

@[simp] theorem setMem_mem (m : Memory) : (s.setMem m).mem = m := rfl
@[simp] theorem setMem_v (m : Memory) : (s.setMem m).v = s.v := rfl
@[simp] theorem setMem_i (m : Memory) : (s.setMem m).i = s.i := rfl
@[simp] theorem setMem_pc (m : Memory) : (s.setMem m).pc = s.pc := rfl
@[simp] theorem setMem_stack (m : Memory) : (s.setMem m).stack = s.stack := rfl
@[simp] theorem setMem_sp (m : Memory) : (s.setMem m).sp = s.sp := rfl
@[simp] theorem setMem_disp (m : Memory) : (s.setMem m).disp = s.disp := rfl
@[simp] theorem setMem_key (m : Memory) : (s.setMem m).key = s.key := rfl
@[simp] theorem setMem_dt (m : Memory) : (s.setMem m).dt = s.dt := rfl
@[simp] theorem setMem_st (m : Memory) : (s.setMem m).st = s.st := rfl
@[simp] theorem setMem_rng (m : Memory) : (s.setMem m).rng = s.rng := rfl
@[simp] theorem setMem_status (m : Memory) : (s.setMem m).status = s.status := rfl
@[simp] theorem setMem_freeIndex (m : Memory) : (s.setMem m).freeIndex = s.freeIndex := rfl
@[simp] theorem setMem_reg (m : Memory) (y : Reg) : (s.setMem m).reg y = s.reg y := rfl

/-! setDisp -/

@[simp] theorem setDisp_mem (d : Display) : (s.setDisp d).mem = s.mem := rfl
@[simp] theorem setDisp_v (d : Display) : (s.setDisp d).v = s.v := rfl
@[simp] theorem setDisp_i (d : Display) : (s.setDisp d).i = s.i := rfl
@[simp] theorem setDisp_pc (d : Display) : (s.setDisp d).pc = s.pc := rfl
@[simp] theorem setDisp_stack (d : Display) : (s.setDisp d).stack = s.stack := rfl
@[simp] theorem setDisp_sp (d : Display) : (s.setDisp d).sp = s.sp := rfl
@[simp] theorem setDisp_disp (d : Display) : (s.setDisp d).disp = d := rfl
@[simp] theorem setDisp_key (d : Display) : (s.setDisp d).key = s.key := rfl
@[simp] theorem setDisp_dt (d : Display) : (s.setDisp d).dt = s.dt := rfl
@[simp] theorem setDisp_st (d : Display) : (s.setDisp d).st = s.st := rfl
@[simp] theorem setDisp_rng (d : Display) : (s.setDisp d).rng = s.rng := rfl
@[simp] theorem setDisp_status (d : Display) : (s.setDisp d).status = s.status := rfl
@[simp] theorem setDisp_freeIndex (d : Display) : (s.setDisp d).freeIndex = s.freeIndex := rfl
@[simp] theorem setDisp_reg (d : Display) (y : Reg) : (s.setDisp d).reg y = s.reg y := rfl

/-! setDt -/

@[simp] theorem setDt_mem (b : Byte) : (s.setDt b).mem = s.mem := rfl
@[simp] theorem setDt_v (b : Byte) : (s.setDt b).v = s.v := rfl
@[simp] theorem setDt_i (b : Byte) : (s.setDt b).i = s.i := rfl
@[simp] theorem setDt_pc (b : Byte) : (s.setDt b).pc = s.pc := rfl
@[simp] theorem setDt_stack (b : Byte) : (s.setDt b).stack = s.stack := rfl
@[simp] theorem setDt_sp (b : Byte) : (s.setDt b).sp = s.sp := rfl
@[simp] theorem setDt_disp (b : Byte) : (s.setDt b).disp = s.disp := rfl
@[simp] theorem setDt_key (b : Byte) : (s.setDt b).key = s.key := rfl
@[simp] theorem setDt_dt (b : Byte) : (s.setDt b).dt = b := rfl
@[simp] theorem setDt_st (b : Byte) : (s.setDt b).st = s.st := rfl
@[simp] theorem setDt_rng (b : Byte) : (s.setDt b).rng = s.rng := rfl
@[simp] theorem setDt_status (b : Byte) : (s.setDt b).status = s.status := rfl
@[simp] theorem setDt_freeIndex (b : Byte) : (s.setDt b).freeIndex = s.freeIndex := rfl
@[simp] theorem setDt_reg (b : Byte) (y : Reg) : (s.setDt b).reg y = s.reg y := rfl

/-! setSt -/

@[simp] theorem setSt_mem (b : Byte) : (s.setSt b).mem = s.mem := rfl
@[simp] theorem setSt_v (b : Byte) : (s.setSt b).v = s.v := rfl
@[simp] theorem setSt_i (b : Byte) : (s.setSt b).i = s.i := rfl
@[simp] theorem setSt_pc (b : Byte) : (s.setSt b).pc = s.pc := rfl
@[simp] theorem setSt_stack (b : Byte) : (s.setSt b).stack = s.stack := rfl
@[simp] theorem setSt_sp (b : Byte) : (s.setSt b).sp = s.sp := rfl
@[simp] theorem setSt_disp (b : Byte) : (s.setSt b).disp = s.disp := rfl
@[simp] theorem setSt_key (b : Byte) : (s.setSt b).key = s.key := rfl
@[simp] theorem setSt_dt (b : Byte) : (s.setSt b).dt = s.dt := rfl
@[simp] theorem setSt_st (b : Byte) : (s.setSt b).st = b := rfl
@[simp] theorem setSt_rng (b : Byte) : (s.setSt b).rng = s.rng := rfl
@[simp] theorem setSt_status (b : Byte) : (s.setSt b).status = s.status := rfl
@[simp] theorem setSt_freeIndex (b : Byte) : (s.setSt b).freeIndex = s.freeIndex := rfl
@[simp] theorem setSt_reg (b : Byte) (y : Reg) : (s.setSt b).reg y = s.reg y := rfl

/-! setRng -/

@[simp] theorem setRng_mem (r : BitVec 32) : (s.setRng r).mem = s.mem := rfl
@[simp] theorem setRng_v (r : BitVec 32) : (s.setRng r).v = s.v := rfl
@[simp] theorem setRng_i (r : BitVec 32) : (s.setRng r).i = s.i := rfl
@[simp] theorem setRng_pc (r : BitVec 32) : (s.setRng r).pc = s.pc := rfl
@[simp] theorem setRng_stack (r : BitVec 32) : (s.setRng r).stack = s.stack := rfl
@[simp] theorem setRng_sp (r : BitVec 32) : (s.setRng r).sp = s.sp := rfl
@[simp] theorem setRng_disp (r : BitVec 32) : (s.setRng r).disp = s.disp := rfl
@[simp] theorem setRng_key (r : BitVec 32) : (s.setRng r).key = s.key := rfl
@[simp] theorem setRng_dt (r : BitVec 32) : (s.setRng r).dt = s.dt := rfl
@[simp] theorem setRng_st (r : BitVec 32) : (s.setRng r).st = s.st := rfl
@[simp] theorem setRng_rng (r : BitVec 32) : (s.setRng r).rng = r := rfl
@[simp] theorem setRng_status (r : BitVec 32) : (s.setRng r).status = s.status := rfl
@[simp] theorem setRng_freeIndex (r : BitVec 32) : (s.setRng r).freeIndex = s.freeIndex := rfl
@[simp] theorem setRng_reg (r : BitVec 32) (y : Reg) : (s.setRng r).reg y = s.reg y := rfl

/-! setKey -/

@[simp] theorem setKey_mem (k : Vector Bool 16) : (s.setKey k).mem = s.mem := rfl
@[simp] theorem setKey_v (k : Vector Bool 16) : (s.setKey k).v = s.v := rfl
@[simp] theorem setKey_i (k : Vector Bool 16) : (s.setKey k).i = s.i := rfl
@[simp] theorem setKey_pc (k : Vector Bool 16) : (s.setKey k).pc = s.pc := rfl
@[simp] theorem setKey_stack (k : Vector Bool 16) : (s.setKey k).stack = s.stack := rfl
@[simp] theorem setKey_sp (k : Vector Bool 16) : (s.setKey k).sp = s.sp := rfl
@[simp] theorem setKey_disp (k : Vector Bool 16) : (s.setKey k).disp = s.disp := rfl
@[simp] theorem setKey_key (k : Vector Bool 16) : (s.setKey k).key = k := rfl
@[simp] theorem setKey_dt (k : Vector Bool 16) : (s.setKey k).dt = s.dt := rfl
@[simp] theorem setKey_st (k : Vector Bool 16) : (s.setKey k).st = s.st := rfl
@[simp] theorem setKey_rng (k : Vector Bool 16) : (s.setKey k).rng = s.rng := rfl
@[simp] theorem setKey_status (k : Vector Bool 16) : (s.setKey k).status = s.status := rfl
@[simp] theorem setKey_freeIndex (k : Vector Bool 16) : (s.setKey k).freeIndex = s.freeIndex := rfl
@[simp] theorem setKey_reg (k : Vector Bool 16) (y : Reg) : (s.setKey k).reg y = s.reg y := rfl

end Sys2Proof.Machine.State
end

