-- ==== Sys2Proof/Laws/Ops.lean ====
section
/-!
SUPPORT. One lemma for each shared operation of the machine, which says all it can do: later proofs cite these and do not unfold the operation.
-/
namespace Sys2Proof.Machine

/-! Registers. -/

@[simp] theorem State.reg_setReg (s : State) (x y : Reg) (b : Byte) : (s.setReg x b).reg y = if y = x then b else s.reg y := by
  simp only [State.reg, State.setReg, Vector.get_eq_getElem, Vector.getElem_set, Fin.val_inj, eq_comm]

@[simp] theorem State.reg_setV (s : State) (v : Vector Byte 16) (y : Reg) : (s.setV v).reg y = v.get y := rfl

/-- VF after a flag instruction is the flag, also when VF is the destination (10_state.md R106). -/
@[simp] theorem State.reg_setRegFlag (s : State) (x y : Reg) (b : Byte) (c : Bool) :
    (s.setRegFlag x b c).reg y = if y = vf then flagByte c else if y = x then b else s.reg y := by
  simp [State.setRegFlag]

/-- A flag instruction writes registers only. -/
theorem State.setRegFlag_eq_setV (s : State) (x : Reg) (b : Byte) (c : Bool) :
    s.setRegFlag x b c = s.setV (s.setRegFlag x b c).v := rfl

theorem State.setReg_eq_setV (s : State) (x : Reg) (b : Byte) : s.setReg x b = s.setV (s.setReg x b).v := rfl

@[simp] theorem get_loadRegs (s : State) (base : Nat) (x y : Reg) :
    (loadRegs s base x).get y = if y ≤ x then readByte s.mem (base + y.val) else s.reg y := by
  simp [loadRegs, Vector.get_eq_getElem]

theorem regsUpTo_length (s : State) (x : Reg) : (regsUpTo s x).length = x.val + 1 := by
  simp [regsUpTo]

theorem getElem?_regsUpTo (s : State) (x k : Reg) (h : k ≤ x) : (regsUpTo s x)[k.val]? = some (s.reg k) := by
  have : k.val ≤ x.val := h
  simp [regsUpTo, State.reg, Vector.get_eq_getElem, show k.val < x.val + 1 by omega]

/-! The results of the arithmetic. -/

@[simp] theorem toNat_sum8 (a b : Byte) : (sum8 a b).toNat = (a.toNat + b.toNat) % 256 := by simp [sum8]

@[simp] theorem toNat_diff8 (a b : Byte) : (diff8 a b).toNat = (a.toNat + 256 - b.toNat) % 256 := by simp [diff8]

theorem toNat_flagByte (c : Bool) : (flagByte c).toNat = if c then 1 else 0 := by cases c <;> rfl

/-- The bit that a right shift drops, as VF takes it. -/
theorem toNat_flagByte_bit0 (a : Byte) : (flagByte (a.getLsbD 0)).toNat = a.toNat % 2 := by
  simp only [toNat_flagByte, BitVec.getLsbD, Nat.testBit_zero, decide_eq_true_eq]
  split <;> omega

/-- The bit that a left shift drops, as VF takes it. -/
theorem toNat_flagByte_bit7 (a : Byte) : (flagByte (a.getLsbD 7)).toNat = a.toNat / 128 := by
  have := a.isLt
  simp only [toNat_flagByte, BitVec.getLsbD, Nat.testBit_eq_decide_div_mod_eq, decide_eq_true_eq]
  split <;> omega

@[simp] theorem toNat_addrOperand (nnn : Addr12) : (addrOperand nnn).toNat = nnn.toNat := by
  have := nnn.isLt
  simp [addrOperand, BitVec.toNat_setWidth]; omega

@[simp] theorem toNat_zext16 (b : Byte) : (zext16 b).toNat = b.toNat := by
  have := b.isLt
  simp [zext16, BitVec.toNat_setWidth]; omega

/-! The call stack. -/

/-- Push: the entry goes above those in use, every other element of the state is kept. -/
theorem State.push_of_lt (s : State) (a : Word) (h : s.sp.val < 16) :
    ∃ t, s.push a = some t ∧ t.sp.val = s.sp.val + 1 ∧ t.stack = s.stack.set s.sp.val a ∧ t = { s with stack := t.stack, sp := t.sp } := by
  refine ⟨_, by simp only [State.push, dif_pos h]; rfl, rfl, rfl, rfl⟩

theorem State.push_of_full (s : State) (a : Word) (h : s.sp.val = 16) : s.push a = none := by
  simp [State.push, h]

/-- Pop: the newest entry comes off, every other element of the state is kept. -/
theorem State.pop_of_pos (s : State) (h : s.sp.val ≠ 0) :
    ∃ t, s.pop = some (s.stack[s.sp.val - 1], t) ∧ t.sp.val = s.sp.val - 1 ∧ t = { s with sp := t.sp } := by
  refine ⟨_, by simp only [State.pop, dif_neg h]; rfl, rfl, rfl⟩

theorem State.pop_of_empty (s : State) (h : s.sp.val = 0) : s.pop = none := by
  simp [State.pop, h]

/-! The display. -/

theorem getLsbD_one_shiftLeft {j k : Nat} (h : j < 64) : (1#64 <<< k).getLsbD j = decide (j = k) := by
  rw [BitVec.getLsbD_shiftLeft, BitVec.getLsbD_one]
  rcases Nat.lt_trichotomy j k with hk | rfl | hk
  · simp [hk, Nat.ne_of_lt hk]
  · simp [h]
  · simp [Nat.ne_of_gt hk]; omega

/-- Lighting a pixel of the display lights that one and keeps the others. -/
theorem pixel_lightPixel (d : Display) {p : Nat} (hp : p < 2048) (q : Nat) :
    pixel (lightPixel d p) q = (decide (q = p) || pixel d q) := by
  have hr : p / 64 < 32 := by omega
  simp only [pixel, lightPixel, Config.dispWidth, Config.dispHeight, dif_pos hr]
  by_cases hq : q / 64 < 32
  · simp only [dif_pos hq, Vector.getElem_set]
    by_cases hpq : p / 64 = q / 64
    · have same : (q % 64 = p % 64) ↔ q = p := by omega
      simp only [hpq, if_pos, BitVec.getLsbD_or, getLsbD_one_shiftLeft (Nat.mod_lt q (by decide : 64 > 0)), same, Bool.or_comm]
    · rw [if_neg hpq, show decide (q = p) = false from decide_eq_false (by rintro rfl; exact hpq rfl), Bool.false_or]
  · simp [hq, show q ≠ p by rintro rfl; exact hq hr]

theorem pixel_blankDisplay (p : Nat) : pixel blankDisplay p = false := by
  simp [pixel, blankDisplay]

/-! The keypad. -/

/-- The key wait finds a key exactly when it is pressed and no lower one is. -/
theorem lowestPressed_eq_some {key : Vector Bool 16} {k : Reg} :
    lowestPressed key = some k ↔ key.get k = true ∧ ∀ j < k, key.get j = false := by
  unfold lowestPressed
  rw [List.find?_eq_some_iff_getElem]
  constructor
  · rintro ⟨h, i, hi, rfl, hlow⟩
    refine ⟨h, fun j hj => ?_⟩
    simp only [List.getElem_finRange] at hj
    simpa using hlow j.val (by simpa [Fin.lt_def] using hj)
  · rintro ⟨h, hlow⟩
    refine ⟨h, k.val, by simp, by simp, fun j hj => ?_⟩
    simpa using hlow ⟨j, by omega⟩ hj

theorem lowestPressed_eq_none {key : Vector Bool 16} : lowestPressed key = none ↔ ∀ k, key.get k = false := by
  simp [lowestPressed, List.find?_eq_none]

/-! Faults. -/

@[simp] theorem takeFault_status (f : Fault) (a w : Word) (s : State) : (takeFault f a w s).status = .faulted f a w := rfl

@[simp] theorem takeFault_freeIndex (f : Fault) (a w : Word) (s : State) : (takeFault f a w s).freeIndex = s.freeIndex + 1 := rfl

theorem takeFault_mem_wf (f : Fault) (a w : Word) (s : State) : (takeFault f a w s).mem.wf := afterFaultMemory_wf _

/-- What a fault leaves depends on the state it is taken in through the counter of free values alone. -/
theorem takeFault_congr (f : Fault) (a w : Word) {s t : State} (h : s.freeIndex = t.freeIndex) :
    takeFault f a w s = takeFault f a w t := by
  simp only [takeFault, h]

/-- An instruction that reaches a run of bytes has its effect, or takes the data fault when the run is not in memory. -/
theorem withDataRun_eq (i : Instr) (len : Nat) (s t : State) :
    withDataRun i len s t = .next
      (if len = 0 ∨ s.i.toNat + len ≤ 4096 then t
       else takeFault .memoryOutOfBounds (saturate16 (max s.i.toNat 4096)) (encode i) s) := by
  by_cases h : len = 0 ∨ s.i.toNat + len ≤ 4096
  · rw [if_pos h, withDataRun, checkRange, if_neg (by simp only [dataAddress]; omega)]
  · rw [if_neg h, withDataRun, checkRange, if_pos (by simp only [dataAddress]; omega)]
    rfl

/-! The host's operands. -/

theorem imageFits_iff {bytes : List Byte} : imageFits bytes = true ↔ bytes.length ≤ 3584 := by simp [imageFits, Config.progMax]

theorem keyInRange_iff {index : Nat} : keyInRange index = true ↔ index ≤ 15 := by simp [keyInRange]

/-! The skip. -/

theorem skipIf_eq (c : Bool) (s : State) : skipIf c s = s.setPc (if c then s.pc + 2 else s.pc) := by
  cases c <;> rfl

/-! The fetch. -/

/-- The fetched word as a number: the byte at the lower address counts 256 (20_memory.md R210). -/
theorem toNat_wordOfBytes (hi lo : Byte) : (wordOfBytes hi lo).toNat = 256 * hi.toNat + lo.toNat := by
  have := lo.isLt
  show (hi ++ lo).toNat = _
  rw [BitVec.toNat_append, ← Nat.shiftLeft_add_eq_or_of_lt this, Nat.shiftLeft_eq, Nat.mul_comm]

theorem fetch_of_le (s : State) (h : s.pc.toNat ≤ 0xFFE) :
    fetch s = some (wordOfBytes (readByte s.mem s.pc.toNat) (readByte s.mem (s.pc.toNat + 1)), s.setPc (s.pc + 2)) := by
  rw [fetch, if_neg (by omega)]

theorem fetch_of_gt (s : State) (h : 0xFFE < s.pc.toNat) : fetch s = none := by
  rw [fetch, if_pos (by omega)]

/-- A fetch and decode gives an instruction and the state with `pc` moved past it, or ends in one of the two faults. -/
theorem fetchDecode_cases (s : State) :
    (∃ i, s.pc.toNat ≤ 0xFFE ∧ fetchDecode s = .ok (i, s.setPc (s.pc + 2))) ∨
      ∃ f a w, fetchDecode s = .error (takeFault f a w s) := by
  by_cases h : s.pc.toNat ≤ 0xFFE
  · simp only [fetchDecode, fetch_of_le s h]
    split
    · exact .inl ⟨_, h, rfl⟩
    · exact .inr ⟨_, _, _, congrArg _ (takeFault_congr _ _ _ rfl)⟩
  · exact .inr ⟨_, _, _, by rw [fetchDecode, fetch_of_gt s (by omega)]⟩

end Sys2Proof.Machine
end

