-- ==== Sys2Proof/Laws/Display.lean ====
section
/-!
SUPPORT. The sprite compositer: which pixels a sprite covers, each at most once, and what drawing it does to the display and the collision flag.
-/
namespace Sys2Proof.Machine

theorem spritePixel_lt (x0 y0 : Byte) (r c : Nat) : spritePixel x0 y0 r c < 2048 := by
  have := Nat.mod_lt (y0.toNat + r) (by decide : 32 > 0)
  have := Nat.mod_lt (x0.toNat + c) (by decide : 64 > 0)
  simp only [spritePixel, Config.dispHeight, Config.dispWidth]; omega

/-- Two bits of a sprite of at most 32 rows cover the same pixel only when they are the same bit (45_display.md R507). -/
theorem spritePixel_inj (x0 y0 : Byte) {r r' c c' : Nat} (hr : r < 32) (hr' : r' < 32) (hc : c < 8) (hc' : c' < 8)
    (h : spritePixel x0 y0 r c = spritePixel x0 y0 r' c') : r = r' ∧ c = c' := by
  simp only [spritePixel, Config.dispHeight, Config.dispWidth] at h
  omega

theorem mem_rowPixels {x0 y0 row : Byte} {r p : Nat} :
    p ∈ rowPixels x0 y0 r row ↔ ∃ c < 8, row.getLsbD (7 - c) = true ∧ p = spritePixel x0 y0 r c := by
  simp only [rowPixels, List.mem_map, List.mem_filter, List.mem_range]
  constructor
  · rintro ⟨c, ⟨hc, hb⟩, rfl⟩; exact ⟨c, hc, hb, rfl⟩
  · rintro ⟨c, hc, hb, rfl⟩; exact ⟨c, ⟨hc, hb⟩, rfl⟩

/-- A sprite covers exactly the pixels of its set bits. -/
theorem mem_spritePixels {x0 y0 : Byte} {rows : List Byte} {r p : Nat} :
    p ∈ spritePixels x0 y0 r rows ↔
      ∃ k row, rows[k]? = some row ∧ ∃ c < 8, row.getLsbD (7 - c) = true ∧ p = spritePixel x0 y0 (r + k) c := by
  induction rows generalizing r with
  | nil => simp [spritePixels]
  | cons row rows ih =>
    rw [spritePixels, List.mem_append, mem_rowPixels, ih]
    constructor
    · rintro (h | ⟨k, row', hk, h⟩)
      · exact ⟨0, row, rfl, h⟩
      · exact ⟨k + 1, row', hk, by simpa [Nat.add_assoc, Nat.add_comm 1 k] using h⟩
    · rintro ⟨_ | k, row', hk, h⟩
      · simp only [List.getElem?_cons_zero, Option.some.injEq] at hk
        exact .inl (hk ▸ h)
      · exact .inr ⟨k, row', hk, by simpa [Nat.add_assoc, Nat.add_comm 1 k] using h⟩

/-- A sprite of at most 32 rows covers no pixel twice (45_display.md R507). -/
theorem spritePixels_nodup (x0 y0 : Byte) (rows : List Byte) (r : Nat) (h : r + rows.length ≤ 32) :
    (spritePixels x0 y0 r rows).Nodup := by
  induction rows generalizing r with
  | nil => exact List.nodup_nil
  | cons row rows ih =>
    simp only [List.length_cons] at h
    refine List.nodup_append.2 ⟨?_, ih (r + 1) (by omega), ?_⟩
    · refine List.Nodup.map_on (fun c hc c' hc' he => ?_) (List.nodup_range.filter _)
      simp only [List.mem_filter, List.mem_range] at hc hc'
      exact (spritePixel_inj x0 y0 (by omega) (by omega) hc.1 hc'.1 he).2
    · rintro p hp q hq rfl
      obtain ⟨c, hc, -, rfl⟩ := mem_rowPixels.1 hp
      obtain ⟨k, row', hk, c', hc', -, he⟩ := mem_spritePixels.1 hq
      have := (List.getElem?_eq_some_iff.1 hk).1
      have := (spritePixel_inj x0 y0 (by omega) (by omega) hc hc' he).1
      omega

theorem foldl_drawBit_fst (ps : List Nat) (hp : ∀ p ∈ ps, p < 2048) (d : Display) (hit : Bool) (q : Nat) :
    pixel (ps.foldl drawBit (d, hit)).1 q = (decide (q ∈ ps) || pixel d q) := by
  induction ps generalizing d hit with
  | nil => simp
  | cons p ps ih =>
    rw [List.forall_mem_cons] at hp
    rw [List.foldl_cons, drawBit, ih hp.2, pixel_lightPixel d hp.1]
    by_cases h : q = p <;> simp [h]

theorem foldl_drawBit_snd (ps : List Nat) (hp : ∀ p ∈ ps, p < 2048) (hn : ps.Nodup) (d : Display) (hit : Bool) :
    (ps.foldl drawBit (d, hit)).2 = (hit || decide (∃ p ∈ ps, pixel d p = true)) := by
  induction ps generalizing d hit with
  | nil => simp
  | cons p ps ih =>
    rw [List.forall_mem_cons] at hp
    rw [List.nodup_cons] at hn
    have same : (∃ q ∈ ps, pixel (lightPixel d p) q = true) ↔ ∃ q ∈ ps, pixel d q = true := by
      refine exists_congr fun q => and_congr_right fun hq => ?_
      rw [pixel_lightPixel d hp.1, decide_eq_false (by rintro rfl; exact hn.1 hq), Bool.false_or]
    rw [List.foldl_cons, drawBit, ih hp.2 hn.2]
    simp only [same, List.exists_mem_cons_iff, Bool.decide_or, Bool.decide_eq_true, Bool.or_assoc]

theorem spritePixels_lt {x0 y0 : Byte} {rows : List Byte} {r : Nat} : ∀ p ∈ spritePixels x0 y0 r rows, p < 2048 := by
  intro p hp
  obtain ⟨k, row, -, c, -, -, rfl⟩ := mem_spritePixels.1 hp
  exact spritePixel_lt _ _ _ _

/-- Drawing lights the pixels of the sprite's set bits and keeps every other pixel (45_display.md R504). -/
theorem pixel_drawSprite (d : Display) (x0 y0 : Byte) (rows : List Byte) (q : Nat) :
    pixel (drawSprite d x0 y0 rows).1 q = (decide (q ∈ spritePixels x0 y0 0 rows) || pixel d q) :=
  foldl_drawBit_fst _ spritePixels_lt d false q

/-- The collision flag tells whether a set bit covers a pixel that was true before the sprite was drawn (45_display.md R507). -/
theorem drawSprite_hit (d : Display) (x0 y0 : Byte) (rows : List Byte) (h : rows.length ≤ 32) :
    (drawSprite d x0 y0 rows).2 = decide (∃ p ∈ spritePixels x0 y0 0 rows, pixel d p = true) := by
  rw [drawSprite, foldl_drawBit_snd _ spritePixels_lt (spritePixels_nodup x0 y0 rows 0 (by omega)), Bool.false_or]

end Sys2Proof.Machine
end

