-- ==== Sys2Proof/Laws/Fields.lean ====
section
/-!
SUPPORT. The fields of a word built in one of the formats of 30_encoding.md R334: an operand is read back from its place, and the fixed
nibbles of the match stay as they are.
-/
namespace Sys2Proof

theorem extract_or (a b : Word) (k n : Nat) : (a ||| b).extractLsb' k n = a.extractLsb' k n ||| b.extractLsb' k n := by
  apply BitVec.eq_of_getLsbD_eq
  intro j hj
  simp [hj]

/-- A field that lies above a widened operand does not see it. -/
theorem extract_setWidth_above {m : Nat} (b : BitVec m) {k : Nat} (hk : m ≤ k) (n : Nat) :
    (b.setWidth 16).extractLsb' k n = 0#n := by
  apply BitVec.eq_of_getLsbD_eq
  intro j hj
  simp [hj, BitVec.getLsbD_setWidth, BitVec.getLsbD_of_ge b (k + j) (by omega)]

/-- The lowest field is the operand that was widened into it. -/
theorem extract_setWidth_low {m : Nat} (b : BitVec m) (hm : m ≤ 16) : (b.setWidth 16).extractLsb' 0 m = b := by
  apply BitVec.eq_of_getLsbD_eq
  intro j hj
  simp [hj, show j < 16 by omega]

theorem extract_regAt8_own (x : Reg) : (regAt x 8).extractLsb' 8 4 = BitVec.ofFin x := by revert x; decide

theorem extract_regAt4_own (y : Reg) : (regAt y 4).extractLsb' 4 4 = BitVec.ofFin y := by revert y; decide

theorem extract_regAt8_top (x : Reg) : (regAt x 8).extractLsb' 12 4 = 0#4 := by revert x; decide

theorem extract_regAt4_top (y : Reg) : (regAt y 4).extractLsb' 12 4 = 0#4 := by revert y; decide

theorem extract_regAt4_mid (y : Reg) : (regAt y 4).extractLsb' 8 4 = 0#4 := by revert y; decide

theorem extract_regAt8_mid (x : Reg) : (regAt x 8).extractLsb' 4 4 = 0#4 := by revert x; decide

theorem extract_regAt8_byte (x : Reg) : (regAt x 8).extractLsb' 0 8 = 0#8 := by revert x; decide

theorem extract_regAt8_low (x : Reg) : (regAt x 8).extractLsb' 0 4 = 0#4 := by revert x; decide

theorem extract_regAt4_low (y : Reg) : (regAt y 4).extractLsb' 0 4 = 0#4 := by revert y; decide

/-! Format A. -/

theorem top_formatA (base : Word) (nnn : Addr12) : nibbleAt (formatA base nnn) 12 = nibbleAt base 12 := by
  simp [nibbleAt, formatA, extract_or, extract_setWidth_above nnn (k := 12) (by decide)]

theorem fieldNNN_formatA (base : Word) (nnn : Addr12) (h : fieldNNN base = 0) : fieldNNN (formatA base nnn) = nnn := by
  rw [fieldNNN] at h
  rw [fieldNNN, formatA, extract_or, h, extract_setWidth_low nnn (by decide)]
  exact BitVec.zero_or

/-! Format I. -/

theorem top_formatI (base : Word) (x : Reg) (nn : Byte) : nibbleAt (formatI base x nn) 12 = nibbleAt base 12 := by
  simp [nibbleAt, formatI, extract_or, extract_regAt8_top, extract_setWidth_above nn (k := 12) (by decide)]

theorem fieldX_formatI (base : Word) (x : Reg) (nn : Byte) (h : nibbleAt base 8 = 0) : fieldX (formatI base x nn) = x := by
  rw [nibbleAt] at h
  simp [fieldX, nibbleAt, formatI, extract_or, h, extract_regAt8_own, extract_setWidth_above nn (k := 8) (by decide)]

theorem fieldNN_formatI (base : Word) (x : Reg) (nn : Byte) (h : fieldNN base = 0) : fieldNN (formatI base x nn) = nn := by
  rw [fieldNN] at h
  rw [fieldNN, formatI, extract_or, extract_or, h, extract_regAt8_byte, extract_setWidth_low nn (by decide)]
  simp

/-! Format D. -/

theorem top_formatD (base : Word) (x y : Reg) (n : Nibble) : nibbleAt (formatD base x y n) 12 = nibbleAt base 12 := by
  simp [nibbleAt, formatD, extract_or, extract_regAt8_top, extract_regAt4_top, extract_setWidth_above n (k := 12) (by decide)]

theorem fieldX_formatD (base : Word) (x y : Reg) (n : Nibble) (h : nibbleAt base 8 = 0) : fieldX (formatD base x y n) = x := by
  rw [nibbleAt] at h
  simp [fieldX, nibbleAt, formatD, extract_or, h, extract_regAt8_own, extract_regAt4_mid, extract_setWidth_above n (k := 8) (by decide)]

theorem fieldY_formatD (base : Word) (x y : Reg) (n : Nibble) (h : nibbleAt base 4 = 0) : fieldY (formatD base x y n) = y := by
  rw [nibbleAt] at h
  simp [fieldY, nibbleAt, formatD, extract_or, h, extract_regAt8_mid, extract_regAt4_own, extract_setWidth_above n (k := 4) (by decide)]

theorem fieldN_formatD (base : Word) (x y : Reg) (n : Nibble) (h : fieldN base = 0) : fieldN (formatD base x y n) = n := by
  rw [fieldN, nibbleAt] at h
  rw [fieldN, nibbleAt, formatD, extract_or, extract_or, extract_or, h, extract_regAt8_low, extract_regAt4_low,
    extract_setWidth_low n (by decide)]
  simp

/-! Formats R and U: few enough operands to look at them all. -/

theorem fieldX_formatU (base : Word) (x : Reg) (h : nibbleAt base 8 = 0) : fieldX (formatU base x) = x := by
  rw [nibbleAt] at h
  simp [fieldX, nibbleAt, formatU, extract_or, h, extract_regAt8_own]

theorem fieldNN_formatU (base : Word) (x : Reg) : fieldNN (formatU base x) = fieldNN base := by
  simp [fieldNN, formatU, extract_or, extract_regAt8_byte]

theorem top_formatU (base : Word) (x : Reg) : nibbleAt (formatU base x) 12 = nibbleAt base 12 := by
  simp [nibbleAt, formatU, extract_or, extract_regAt8_top]

theorem top_formatR (base : Word) (x y : Reg) : nibbleAt (formatR base x y) 12 = nibbleAt base 12 := by
  simp [nibbleAt, formatR, extract_or, extract_regAt8_top, extract_regAt4_top]

theorem fieldX_formatR (base : Word) (x y : Reg) (h : nibbleAt base 8 = 0) : fieldX (formatR base x y) = x := by
  rw [nibbleAt] at h
  simp [fieldX, nibbleAt, formatR, extract_or, h, extract_regAt8_own, extract_regAt4_mid]

theorem fieldY_formatR (base : Word) (x y : Reg) (h : nibbleAt base 4 = 0) : fieldY (formatR base x y) = y := by
  rw [nibbleAt] at h
  simp [fieldY, nibbleAt, formatR, extract_or, h, extract_regAt8_mid, extract_regAt4_own]

theorem fieldN_formatR (base : Word) (x y : Reg) : fieldN (formatR base x y) = fieldN base := by
  simp [fieldN, nibbleAt, formatR, extract_or, extract_regAt8_low, extract_regAt4_low]

end Sys2Proof
end

