-- ==== Sys2Proof/Laws/PerInstr.lean ====
section
/-!
SUPPORT. Statements made per instruction. `InMap`: the word of the instruction selects a row of the opcode map (30_encoding.md R310, R334).
-/
namespace Sys2Proof.Laws.InMap

/-- Some row of the opcode map is selected by the instruction's word. -/
def Statement (i : Instr) : Prop := opcodeMap.any (fun r => r.selects (encode i)) = true

/-! The masks of the map cut the operands off. -/

theorem cut_regAt8 (x : Reg) : regAt x 8 &&& 0xF000 = 0#16 := by revert x; decide

theorem cut_regAt4 (y : Reg) : regAt y 4 &&& 0xF000 = 0#16 := by revert y; decide

theorem cut_setWidth {k : Nat} (hk : k ≤ 12) (b : BitVec k) : b.setWidth 16 &&& 0xF000 = 0#16 := by
  apply BitVec.eq_of_getLsbD_eq
  intro j hj
  by_cases h : j < 12
  · have : (0xF000#16).getLsbD j = false := by interval_cases j <;> rfl
    simp [this]
  · simp [BitVec.getLsbD_setWidth, BitVec.getLsbD_of_ge b j (by omega)]

theorem formatA_mask (base : Word) (nnn : Addr12) : formatA base nnn &&& 0xF000 = base &&& 0xF000 := by
  simp only [formatA, BitVec.and_or_distrib_right, cut_setWidth (by decide : 12 ≤ 12), BitVec.or_zero]

theorem formatI_mask (base : Word) (x : Reg) (nn : Byte) : formatI base x nn &&& 0xF000 = base &&& 0xF000 := by
  simp only [formatI, BitVec.and_or_distrib_right, cut_regAt8, cut_setWidth (by decide : 8 ≤ 12), BitVec.or_zero]

theorem formatD_mask (base : Word) (x y : Reg) (n : Nibble) : formatD base x y n &&& 0xF000 = base &&& 0xF000 := by
  simp only [formatD, BitVec.and_or_distrib_right, cut_regAt8, cut_regAt4, cut_setWidth (by decide : 4 ≤ 12), BitVec.or_zero]

theorem formatR_mask (base : Word) (x y : Reg) : formatR base x y &&& 0xF00F = base &&& 0xF00F := by
  have hx : regAt x 8 &&& 0xF00F = 0#16 := by revert x; decide
  have hy : regAt y 4 &&& 0xF00F = 0#16 := by revert y; decide
  simp only [formatR, BitVec.and_or_distrib_right, hx, hy, BitVec.or_zero]

theorem formatU_mask (base : Word) (x : Reg) : formatU base x &&& 0xF0FF = base &&& 0xF0FF := by
  have hx : regAt x 8 &&& 0xF0FF = 0#16 := by revert x; decide
  simp only [formatU, BitVec.and_or_distrib_right, hx, BitVec.or_zero]

/-- A row of the map that the word selects shows the statement. -/
theorem of_row {i : Instr} (r : Row) (h : r ∈ opcodeMap) (hw : encode i &&& r.mask = r.value) : Statement i :=
  List.any_eq_true.2 ⟨r, h, by simp [Row.selects, hw]⟩

/-! One lemma per instruction. -/

theorem nop : Statement .nop :=
  of_row ⟨"NOP", 0xFFFF, 0x0000⟩ (by decide) (rfl)

theorem cls : Statement .cls :=
  of_row ⟨"CLS", 0xFFFF, 0x00E0⟩ (by decide) (rfl)

theorem ret : Statement .ret :=
  of_row ⟨"RET", 0xFFFF, 0x00EE⟩ (by decide) (rfl)

theorem jp (nnn : Addr12) : Statement (.jp nnn) :=
  of_row ⟨"JP_addr", 0xF000, 0x1000⟩ (by decide) (formatA_mask 0x1000 nnn)

theorem call (nnn : Addr12) : Statement (.call nnn) :=
  of_row ⟨"CALL_addr", 0xF000, 0x2000⟩ (by decide) (formatA_mask 0x2000 nnn)

theorem seImm (x : Reg) (nn : Byte) : Statement (.seImm x nn) :=
  of_row ⟨"SE_Vx__byte", 0xF000, 0x3000⟩ (by decide) (formatI_mask 0x3000 x nn)

theorem sneImm (x : Reg) (nn : Byte) : Statement (.sneImm x nn) :=
  of_row ⟨"SNE_Vx__byte", 0xF000, 0x4000⟩ (by decide) (formatI_mask 0x4000 x nn)

theorem seReg (x y : Reg) : Statement (.seReg x y) :=
  of_row ⟨"SE_Vx__Vy", 0xF00F, 0x5000⟩ (by decide) (formatR_mask 0x5000 x y)

theorem ldImm (x : Reg) (nn : Byte) : Statement (.ldImm x nn) :=
  of_row ⟨"LD_Vx__byte", 0xF000, 0x6000⟩ (by decide) (formatI_mask 0x6000 x nn)

theorem addImm (x : Reg) (nn : Byte) : Statement (.addImm x nn) :=
  of_row ⟨"ADD_Vx__byte", 0xF000, 0x7000⟩ (by decide) (formatI_mask 0x7000 x nn)

theorem ldReg (x y : Reg) : Statement (.ldReg x y) :=
  of_row ⟨"LD_Vx__Vy", 0xF00F, 0x8000⟩ (by decide) (formatR_mask 0x8000 x y)

theorem orReg (x y : Reg) : Statement (.orReg x y) :=
  of_row ⟨"OR_Vx__Vy", 0xF00F, 0x8001⟩ (by decide) (formatR_mask 0x8001 x y)

theorem andReg (x y : Reg) : Statement (.andReg x y) :=
  of_row ⟨"AND_Vx__Vy", 0xF00F, 0x8002⟩ (by decide) (formatR_mask 0x8002 x y)

theorem xorReg (x y : Reg) : Statement (.xorReg x y) :=
  of_row ⟨"XOR_Vx__Vy", 0xF00F, 0x8003⟩ (by decide) (formatR_mask 0x8003 x y)

theorem addReg (x y : Reg) : Statement (.addReg x y) :=
  of_row ⟨"ADD_Vx__Vy", 0xF00F, 0x8004⟩ (by decide) (formatR_mask 0x8004 x y)

theorem subReg (x y : Reg) : Statement (.subReg x y) :=
  of_row ⟨"SUB_Vx__Vy", 0xF00F, 0x8005⟩ (by decide) (formatR_mask 0x8005 x y)

theorem shr (x y : Reg) : Statement (.shr x y) :=
  of_row ⟨"SHR_Vx", 0xF00F, 0x8006⟩ (by decide) (formatR_mask 0x8006 x y)

theorem subnReg (x y : Reg) : Statement (.subnReg x y) :=
  of_row ⟨"SUBN_Vx__Vy", 0xF00F, 0x8007⟩ (by decide) (formatR_mask 0x8007 x y)

theorem shl (x y : Reg) : Statement (.shl x y) :=
  of_row ⟨"SHL_Vx", 0xF00F, 0x800E⟩ (by decide) (formatR_mask 0x800E x y)

theorem sneReg (x y : Reg) : Statement (.sneReg x y) :=
  of_row ⟨"SNE_Vx__Vy", 0xF00F, 0x9000⟩ (by decide) (formatR_mask 0x9000 x y)

theorem ldI (nnn : Addr12) : Statement (.ldI nnn) :=
  of_row ⟨"LD_I__addr", 0xF000, 0xA000⟩ (by decide) (formatA_mask 0xA000 nnn)

theorem jpV0 (nnn : Addr12) : Statement (.jpV0 nnn) :=
  of_row ⟨"JP_V0__addr", 0xF000, 0xB000⟩ (by decide) (formatA_mask 0xB000 nnn)

theorem rnd (x : Reg) (nn : Byte) : Statement (.rnd x nn) :=
  of_row ⟨"RND_Vx__byte", 0xF000, 0xC000⟩ (by decide) (formatI_mask 0xC000 x nn)

theorem drw (x y : Reg) (n : Nibble) : Statement (.drw x y n) :=
  of_row ⟨"DRW_Vx__Vy__nibble", 0xF000, 0xD000⟩ (by decide) (formatD_mask 0xD000 x y n)

theorem skp (x : Reg) : Statement (.skp x) :=
  of_row ⟨"SKP_Vx", 0xF0FF, 0xE09E⟩ (by decide) (formatU_mask 0xE09E x)

theorem sknp (x : Reg) : Statement (.sknp x) :=
  of_row ⟨"SKNP_Vx", 0xF0FF, 0xE0A1⟩ (by decide) (formatU_mask 0xE0A1 x)

theorem ldVxDt (x : Reg) : Statement (.ldVxDt x) :=
  of_row ⟨"LD_Vx__DT", 0xF0FF, 0xF007⟩ (by decide) (formatU_mask 0xF007 x)

theorem ldVxK (x : Reg) : Statement (.ldVxK x) :=
  of_row ⟨"LD_Vx__K", 0xF0FF, 0xF00A⟩ (by decide) (formatU_mask 0xF00A x)

theorem ldDtVx (x : Reg) : Statement (.ldDtVx x) :=
  of_row ⟨"LD_DT__Vx", 0xF0FF, 0xF015⟩ (by decide) (formatU_mask 0xF015 x)

theorem ldStVx (x : Reg) : Statement (.ldStVx x) :=
  of_row ⟨"LD_ST__Vx", 0xF0FF, 0xF018⟩ (by decide) (formatU_mask 0xF018 x)

theorem addIVx (x : Reg) : Statement (.addIVx x) :=
  of_row ⟨"ADD_I__Vx", 0xF0FF, 0xF01E⟩ (by decide) (formatU_mask 0xF01E x)

theorem ldFVx (x : Reg) : Statement (.ldFVx x) :=
  of_row ⟨"LD_F__Vx", 0xF0FF, 0xF029⟩ (by decide) (formatU_mask 0xF029 x)

theorem ldBVx (x : Reg) : Statement (.ldBVx x) :=
  of_row ⟨"LD_B__Vx", 0xF0FF, 0xF033⟩ (by decide) (formatU_mask 0xF033 x)

theorem ldMemVx (x : Reg) : Statement (.ldMemVx x) :=
  of_row ⟨"LD__I___Vx", 0xF0FF, 0xF055⟩ (by decide) (formatU_mask 0xF055 x)

theorem ldVxMem (x : Reg) : Statement (.ldVxMem x) :=
  of_row ⟨"LD_Vx___I", 0xF0FF, 0xF065⟩ (by decide) (formatU_mask 0xF065 x)

end Sys2Proof.Laws.InMap
end

