-- ==== Sys2Proof/Tests/Slice0.lean ====
section
/-!
SUPPORT. The tests of the model: what the checks of WellFormed refuse, one word for each constructor, one step for each instruction, and for each
statement a state and operands that meet its hypotheses. Expected values come from spec/: encodings from 30_encoding.md R310, vectors (T-…) from
95_test_vectors.md.
-/
namespace Sys2Proof.Tests

open Sys2Proof Sys2Proof.Machine

/-! Small states. -/

/-- The reset state with some registers set. -/
def withRegs (rs : List (Reg × Byte)) (s : State) : State := rs.foldl (fun s r => s.setReg r.1 r.2) s

/-- Bytes placed in memory from an address upward. -/
def withBytes (base : Nat) (bs : List Byte) (s : State) : State := s.setMem (writeBytes s.mem base bs)

/-- Pixels lit. -/
def withPixels (ps : List Nat) (s : State) : State := s.setDisp (ps.foldl lightPixel s.disp)

/-- Keys pressed. -/
def withKeys (ks : List Nat) (s : State) : State := s.setKey (ks.foldl (fun key k => key.setIfInBounds k true) s.key)

/-- The stack pointer and the stack's lowest entries. -/
def withStack (sp : Fin 17) (as : List Word) (s : State) : State :=
  { s with sp := sp, stack := (as.zipIdx).foldl (fun k a => k.setIfInBounds a.2 a.1) s.stack }

/-- A faulted state. -/
def faulted : State := { State.reset with status := .faulted .stackUnderflow 0x200 0x00EE }

/-- The state after one step over an instruction word placed at `pc`. -/
def ran (s : State) (w : Nat) : Option State :=
  match step (s.withFetchWord 16 w) with
  | .next t => some t
  | .fault _ => none
  | .refused _ => none

/-- The state after one command. -/
def did (c : Command) (s : State) : Option State :=
  match command c s with
  | .next t => some t
  | .fault _ => none
  | .refused _ => none

/-! What the checks refuse: an ill-formed term for each. -/

/-- A match bit outside the mask. -/
theorem test_row_wf_refuses : Row.wf ⟨"BAD", 0xF000, 0x1001⟩ = false := by decide

/-- 8XY6 beside a row 8XYN that covers it. -/
theorem test_rows_apart_refuses : Row.apart ⟨"SHR_Vx", 0xF00F, 0x8006⟩ ⟨"BAD", 0xF000, 0x8000⟩ = false := by decide

theorem test_map_wf_refuses : opcodeMapWf [⟨"SHR_Vx", 0xF00F, 0x8006⟩, ⟨"BAD", 0xF000, 0x8000⟩] = false := by decide

theorem test_map_wf : opcodeMapWf opcodeMap = true := by decide

/-- T-LOAD-3: 3585 bytes do not fit. -/
theorem test_image_refused : imageFits (List.replicate 3585 0) = false :=
  decide_eq_false (by rw [List.length_replicate]; decide)

/-- T-PRESS-3: there is no key 16. -/
theorem test_key_refused : keyInRange 16 = false := by decide

/-- Addresses out of order, an address outside memory, and a byte listed that its address reads as anyway. -/
theorem test_memory_wf_refuses :
    ¬ Memory.wf [(0x300, 1), (0x2FF, 1)] ∧ ¬ Memory.wf [(4096, 1)] ∧ ¬ Memory.wf [(0x300, 0)] ∧ Memory.wf [(0x300, 1), (0xFFF, 2)] := by
  decide

/-! Decoding: for every constructor a word written bit by bit from the match and mask of 30_encoding.md R310, X = 1 and Y = 2 or others that
tell the fields apart. -/

theorem test_decode_control :
    decodeWord 0b0000_0000_0000_0000 = .ok .nop ∧ decodeWord 0b0000_0000_1110_1110 = .ok .ret ∧
    decodeWord 0b0001_0010_0011_0100 = .ok (.jp 0x234) ∧ decodeWord 0b0010_1010_1011_1100 = .ok (.call 0xABC) ∧
    decodeWord 0b1011_0011_0001_0000 = .ok (.jpV0 0x310) := by
  decide

theorem test_decode_skip :
    decodeWord 0b0011_1111_0000_0001 = .ok (.seImm 15 0x01) ∧ decodeWord 0b0100_0010_0000_0110 = .ok (.sneImm 2 0x06) ∧
    decodeWord 0b0101_0011_0100_0000 = .ok (.seReg 3 4) ∧ decodeWord 0b1001_0011_0100_0000 = .ok (.sneReg 3 4) := by
  decide

theorem test_decode_load :
    decodeWord 0b0110_1010_1110_1010 = .ok (.ldImm 10 0xEA) ∧ decodeWord 0b0111_0001_1111_1110 = .ok (.addImm 1 0xFE) ∧
    decodeWord 0b1000_0001_0010_0000 = .ok (.ldReg 1 2) := by
  decide

theorem test_decode_logic :
    decodeWord 0b1000_0001_0010_0001 = .ok (.orReg 1 2) ∧ decodeWord 0b1000_0001_0010_0010 = .ok (.andReg 1 2) ∧
    decodeWord 0b1000_0001_0010_0011 = .ok (.xorReg 1 2) := by
  decide

theorem test_decode_arithmetic :
    decodeWord 0b1000_0001_0010_0100 = .ok (.addReg 1 2) ∧ decodeWord 0b1000_0001_0010_0101 = .ok (.subReg 1 2) ∧
    decodeWord 0b1000_0011_0100_0110 = .ok (.shr 3 4) ∧ decodeWord 0b1000_0001_0010_0111 = .ok (.subnReg 1 2) ∧
    decodeWord 0b1000_0011_0100_1110 = .ok (.shl 3 4) := by
  decide

theorem test_decode_index :
    decodeWord 0b1010_0011_0000_0101 = .ok (.ldI 0x305) ∧ decodeWord 0b1111_0010_0001_1110 = .ok (.addIVx 2) ∧
    decodeWord 0b1111_0010_0010_1001 = .ok (.ldFVx 2) := by
  decide

theorem test_decode_memory :
    decodeWord 0b1111_0010_0011_0011 = .ok (.ldBVx 2) ∧ decodeWord 0b1111_0010_0101_0101 = .ok (.ldMemVx 2) ∧
    decodeWord 0b1111_0010_0110_0101 = .ok (.ldVxMem 2) := by
  decide

theorem test_decode_random_display :
    decodeWord 0b1100_0001_0000_1111 = .ok (.rnd 1 0x0F) ∧ decodeWord 0b0000_0000_1110_0000 = .ok .cls ∧
    decodeWord 0b1101_0001_0010_0101 = .ok (.drw 1 2 5) ∧ decodeWord 0b1101_1101_1101_1101 = .ok (.drw 13 13 13) := by
  decide

theorem test_decode_keypad :
    decodeWord 0b1110_0101_1001_1110 = .ok (.skp 5) ∧ decodeWord 0b1110_0101_1010_0001 = .ok (.sknp 5) ∧
    decodeWord 0b1111_0010_0000_1010 = .ok (.ldVxK 2) := by
  decide

theorem test_decode_timer :
    decodeWord 0b1111_0001_0000_0111 = .ok (.ldVxDt 1) ∧ decodeWord 0b1111_0001_0001_0101 = .ok (.ldDtVx 1) ∧
    decodeWord 0b1111_0001_0001_1000 = .ok (.ldStVx 1) := by
  decide

/-- T-ILL-1 to T-ILL-16: one illegal word for each group of 30_encoding.md R315, rejected by name. -/
theorem test_decode_rejects :
    decodeWord 0x0230 = .error .group0 ∧ decodeWord 0x5341 = .error .group5 ∧ decodeWord 0x812D = .error .group8 ∧
    decodeWord 0x9341 = .error .group9 ∧ decodeWord 0xE09F = .error .groupE ∧ decodeWord 0xF175 = .error .groupF := by
  decide

/-- Bytes in memory order, high byte first (30_encoding.md R334), with bytes to spare; and one byte alone. -/
theorem test_decode_bytes : decode [0x81, 0x24, 0xFF] = .ok (.addReg 1 2, [0xFF]) ∧ decode [0x81] = .error .truncated := by decide

/-- The same by the numbering of the opcode table: an instruction of 16 bits, and a byte that is no instruction. -/
theorem test_decode_table_word : decodeTableWord 16 0xD125 = some (.drw 1 2 5) ∧ decodeTableWord 16 0xF002 = none := by decide

/-! One step of each instruction. -/

/-- T-FETCH-1: the last fetchable address. -/
theorem test_nop :
    (ran (State.reset.setPc 0xFFE) 0x0000).map (fun t => (t.pc, t.status)) = some (0x1000, .running) := by
  decide

/-- T-JP-3: an odd target is legal. -/
theorem test_jp :
    (ran State.reset 0x1201).map (fun t => t.pc) = some 0x0201 := by
  decide

/-- T-CALL-3: the 16th entry fits. -/
theorem test_call :
    (ran (withStack 15 [] State.reset) 0x2210).map (fun t => (t.pc, t.sp, t.stack.get 15)) = some (0x0210, 16, 0x0202) := by
  decide

/-- T-CALL-4. -/
theorem test_call_full :
    (ran (withStack 16 [] State.reset) 0x2210).map (fun t => t.status) = some (.faulted .stackOverflow 0x0200 0x2210) := by
  decide

/-- T-RET-2: the newest first. -/
theorem test_ret :
    (ran ((withStack 2 [0x0206, 0x030A] State.reset).setPc 0x0300) 0x00EE).map (fun t => (t.pc, t.sp)) = some (0x030A, 1) := by
  decide

/-- T-RET-3. -/
theorem test_ret_empty :
    (ran State.reset 0x00EE).map (fun t => t.status) = some (.faulted .stackUnderflow 0x0200 0x00EE) := by
  decide

/-- T-JPV0-2: no wrap at 12 bits. -/
theorem test_jpV0 :
    (ran (withRegs [(0, 0xFF)] State.reset) 0xBFFF).map (fun t => t.pc) = some 0x10FE := by
  decide

/-- T-JPV0-3: V0 is used, not V3. -/
theorem test_jpV0_reads_v0 :
    (ran (withRegs [(0, 0x02), (3, 0x50)] State.reset) 0xB310).map (fun t => t.pc) = some 0x0312 := by
  decide

/-- T-SE-3. -/
theorem test_seImm :
    (ran (withRegs [(15, 0x01)] State.reset) 0x3F01).map (fun t => t.pc) = some 0x0204 := by
  decide

/-- T-SE-2. -/
theorem test_seImm_not :
    (ran (withRegs [(1, 0x01)] State.reset) 0x3100).map (fun t => t.pc) = some 0x0202 := by
  decide

/-- T-SNE-1. -/
theorem test_sneImm :
    (ran (withRegs [(2, 0x05)] State.reset) 0x4206).map (fun t => t.pc) = some 0x0204 := by
  decide

/-- T-SNE-2. -/
theorem test_sneImm_not :
    (ran (withRegs [(2, 0x06)] State.reset) 0x4206).map (fun t => t.pc) = some 0x0202 := by
  decide

/-- T-SER-1. -/
theorem test_seReg :
    (ran (withRegs [(3, 0x7F), (4, 0x7F)] State.reset) 0x5340).map (fun t => t.pc) = some 0x0204 := by
  decide

/-- T-SER-2. -/
theorem test_seReg_not :
    (ran (withRegs [(3, 0x01), (4, 0x02)] State.reset) 0x5340).map (fun t => t.pc) = some 0x0202 := by
  decide

/-- T-SNER-1. -/
theorem test_sneReg :
    (ran (withRegs [(3, 0x01), (4, 0x02)] State.reset) 0x9340).map (fun t => t.pc) = some 0x0204 := by
  decide

/-- T-SNER-3: X = Y never skips. -/
theorem test_sneReg_not :
    (ran (withRegs [(3, 0xAB)] State.reset) 0x9330).map (fun t => t.pc) = some 0x0202 := by
  decide

/-- T-LD-1, at the odd address of T-ODD-1. -/
theorem test_ldImm :
    (ran (State.reset.setPc 0x201) 0x6AEA).map (fun t => (t.reg 10, t.pc)) = some (0xEA, 0x0203) := by
  decide

/-- T-ADDI-1: wraps, VF stays. -/
theorem test_addImm :
    (ran (withRegs [(1, 0x01), (15, 0x55)] State.reset) 0x71FF).map (fun t => (t.reg 1, t.reg 15)) = some (0x00, 0x55) := by
  decide

/-- T-MOV-1. -/
theorem test_ldReg :
    (ran (withRegs [(2, 0x33)] State.reset) 0x8120).map (fun t => (t.reg 1, t.reg 2)) = some (0x33, 0x33) := by
  decide

/-- T-OR-1: VF stays. -/
theorem test_orReg :
    (ran (withRegs [(0, 0xF0), (1, 0x0F), (15, 0x55)] State.reset) 0x8011).map (fun t => (t.reg 0, t.reg 15)) = some (0xFF, 0x55) := by
  decide

/-- T-AND-1: VF stays. -/
theorem test_andReg :
    (ran (withRegs [(0, 0xF3), (1, 0x3F), (15, 0x55)] State.reset) 0x8012).map (fun t => (t.reg 0, t.reg 15)) = some (0x33, 0x55) := by
  decide

/-- T-XOR-1: VF stays. -/
theorem test_xorReg :
    (ran (withRegs [(0, 0xF3), (1, 0x3F), (15, 0x55)] State.reset) 0x8013).map (fun t => (t.reg 0, t.reg 15)) = some (0xCC, 0x55) := by
  decide

/-- T-ADD-1, the source's example. -/
theorem test_addReg :
    (ran (withRegs [(0, 0xFF), (1, 0x01)] State.reset) 0x8014).map (fun t => (t.reg 0, t.reg 15)) = some (0x00, 0x01) := by
  decide

/-- T-ADD-6: X = F, the sum is lost. -/
theorem test_addReg_vf :
    (ran (withRegs [(1, 0x01), (15, 0x01)] State.reset) 0x8F14).map (fun t => t.reg 15) = some 0x00 := by
  decide

/-- T-SUB-1, the source's example. -/
theorem test_subReg :
    (ran (withRegs [(0, 0x01), (1, 0x02)] State.reset) 0x8015).map (fun t => (t.reg 0, t.reg 15)) = some (0xFF, 0x00) := by
  decide

/-- T-SUB-2: equal operands do not borrow. -/
theorem test_subReg_equal :
    (ran (withRegs [(0, 0x05), (1, 0x05)] State.reset) 0x8015).map (fun t => (t.reg 0, t.reg 15)) = some (0x00, 0x01) := by
  decide

/-- T-SHR-3: VY is ignored. -/
theorem test_shr :
    (ran (withRegs [(3, 0x05), (4, 0xF0)] State.reset) 0x8346).map (fun t => (t.reg 3, t.reg 4, t.reg 15)) = some (0x02, 0xF0, 0x01) := by
  decide

/-- T-SHR-5: X = F. -/
theorem test_shr_vf :
    (ran (withRegs [(15, 0x02)] State.reset) 0x8F06).map (fun t => t.reg 15) = some 0x00 := by
  decide

/-- T-SUBN-1. -/
theorem test_subnReg :
    (ran (withRegs [(1, 0x02), (2, 0x01)] State.reset) 0x8127).map (fun t => (t.reg 1, t.reg 15)) = some (0xFF, 0x00) := by
  decide

/-- T-SUBN-5: Y = F. -/
theorem test_subnReg_vf :
    (ran (withRegs [(0, 0x01), (15, 0x03)] State.reset) 0x80F7).map (fun t => (t.reg 0, t.reg 15)) = some (0x02, 0x01) := by
  decide

/-- T-SHL-3: VY is ignored. -/
theorem test_shl :
    (ran (withRegs [(3, 0x01), (4, 0xFF)] State.reset) 0x834E).map (fun t => (t.reg 3, t.reg 15)) = some (0x02, 0x00) := by
  decide

/-- T-SHL-4: X = F. -/
theorem test_shl_vf :
    (ran (withRegs [(15, 0x80)] State.reset) 0x8F0E).map (fun t => t.reg 15) = some 0x01 := by
  decide

/-- T-LDI-2. -/
theorem test_ldI :
    (ran State.reset 0xAFFF).map (fun t => t.i) = some 0x0FFF := by
  decide

/-- T-ADDX-2: wraps at 16 bits, VF stays. -/
theorem test_addIVx :
    (ran ((withRegs [(0, 0x01), (15, 0x55)] State.reset).setI 0xFFFF) 0xF01E).map (fun t => (t.i, t.reg 15)) = some (0x0000, 0x55) := by
  decide

/-- T-ADDX-3: no wrap at 12 bits. -/
theorem test_addIVx_past_memory :
    (ran ((withRegs [(0, 0x01)] State.reset).setI 0x0FFF) 0xF01E).map (fun t => t.i) = some 0x1000 := by
  decide

/-- T-FONT-4: VX is not cut to a nibble. -/
theorem test_ldFVx :
    (ran (withRegs [(0, 0xFF)] State.reset) 0xF029).map (fun t => t.i) = some 0x04FB := by
  decide

/-- T-BCD-1, the source's example. -/
theorem test_ldBVx :
    (ran ((withRegs [(0, 0xEA)] State.reset).setI 0x0300) 0xF033).map (fun t => readBytes t.mem 0x300 4) = some [2, 3, 4, 0] := by
  decide

/-- T-BCD-7. -/
theorem test_ldBVx_out :
    (ran ((withRegs [(0, 0x7B)] State.reset).setI 0x0FFE) 0xF033).map (fun t => t.status) = some (.faulted .memoryOutOfBounds 0x1000 0xF033) := by
  decide

/-- T-STM-1. -/
theorem test_ldMemVx :
    (ran ((withRegs [(0, 0x11), (1, 0x22), (2, 0x33), (3, 0x44)] State.reset).setI 0x0300) 0xF255).map (fun t => (readBytes t.mem 0x300 4, t.i)) = some ([0x11, 0x22, 0x33, 0], 0x0300) := by
  decide

/-- T-STM-4. -/
theorem test_ldMemVx_out :
    (ran (State.reset.setI 0x0FF1) 0xFF55).map (fun t => t.status) = some (.faulted .memoryOutOfBounds 0x1000 0xFF55) := by
  decide

/-- T-LDM-1. -/
theorem test_ldVxMem :
    (ran ((withBytes 0x300 [2, 3, 4, 5] (withRegs [(3, 0x77)] State.reset)).setI 0x0300) 0xF265).map (fun t => (t.reg 0, t.reg 1, t.reg 2, t.reg 3, t.i)) = some (2, 3, 4, 0x77, 0x0300) := by
  decide

/-- T-LDM-3. -/
theorem test_ldVxMem_out :
    (ran (State.reset.setI 0x1000) 0xF065).map (fun t => t.status) = some (.faulted .memoryOutOfBounds 0x1000 0xF065) := by
  decide

/-- T-RND-1: the result is 0 under every RNG_STEP, and the generator advances once. -/
theorem test_rnd :
    (ran (State.reset.setReg 0 0xFF) 0xC000).map (fun t => (t.reg 0, t.rng)) = some (0, (Config.rngStep Config.rngSeed).1) := by
  have h : ∀ b : Byte, b &&& 0 = 0 := by decide
  exact congrArg (fun b => some (b, (Config.rngStep Config.rngSeed).1)) (h (Config.rngStep Config.rngSeed).2)

/-- T-CLS-1: VF stays. -/
theorem test_cls :
    (ran (withPixels [0, 63, 2047] (State.reset.setReg 15 1)) 0x00E0).map (fun t => (t.disp, t.reg 15)) = some (Vector.replicate 32 0, 1) := by
  decide

/-- T-DRW-2: the second of two equal draws, wrapped on both axes, keeps the pixels and collides. -/
theorem test_drw :
    (ran ((withPixels [62, 1989, 2046, 2047] (withBytes 0x20C [0xC1, 0x80] (withRegs [(0, 0x3E), (1, 0x1F)] State.reset))).setI 0x20C) 0xD012).map (fun t => (t.disp, t.reg 15)) = some ((withPixels [62, 1989, 2046, 2047] State.reset).disp, 1) := by
  decide

/-- T-DRW-8: X = F, the old VF is the column. -/
theorem test_drw_vf :
    (ran ((withBytes 0x300 [0x80] (withRegs [(15, 0x05)] State.reset)).setI 0x300) 0xDF11).map (fun t => (t.disp, t.reg 15)) = some ((withPixels [5] State.reset).disp, 0) := by
  decide

/-- T-SKP-1. -/
theorem test_skp :
    (ran (withKeys [7] (withRegs [(5, 0x07)] State.reset)) 0xE59E).map (fun t => t.pc) = some 0x0204 := by
  decide

/-- T-SKP-3: VX is not cut to a nibble. -/
theorem test_skp_out :
    (ran (withRegs [(5, 0x10)] State.reset) 0xE59E).map (fun t => t.status) = some (.faulted .keyIndexOutOfRange 0x0200 0xE59E) := by
  decide

/-- T-SKNP-2. -/
theorem test_sknp :
    (ran (withKeys [7] (withRegs [(5, 0x07)] State.reset)) 0xE5A1).map (fun t => t.pc) = some 0x0202 := by
  decide

/-- T-SKNP-1. -/
theorem test_sknp_not :
    (ran (withRegs [(5, 0x07)] State.reset) 0xE5A1).map (fun t => t.pc) = some 0x0204 := by
  decide

/-- T-DT-1. -/
theorem test_ldVxDt :
    (ran (State.reset.setDt 4) 0xF107).map (fun t => (t.reg 1, t.dt)) = some (4, 4) := by
  decide

/-- T-KEY-2: the lowest index. -/
theorem test_ldVxK :
    (ran (withKeys [3, 7] State.reset) 0xF20A).map (fun t => (t.reg 2, t.pc)) = some (3, 0x0202) := by
  decide

/-- T-KEY-1. -/
theorem test_ldVxK_waits :
    (ran (withRegs [(2, 0x99)] State.reset) 0xF20A).map (fun t => (t.reg 2, t.pc)) = some (0x99, 0x0200) := by
  decide

/-- T-DT-2. -/
theorem test_ldDtVx :
    (ran (withRegs [(0, 0x05)] State.reset) 0xF015).map (fun t => t.dt) = some 5 := by
  decide

/-- T-SND-1. -/
theorem test_ldStVx :
    (ran (withRegs [(0, 0x02)] State.reset) 0xF018).map (fun t => t.st) = some 2 := by
  decide

/-- T-ILL-13. -/
theorem test_illegal :
    (ran State.reset 0xF002).map (fun t => t.status) = some (.faulted .unimplementedInstruction 0x0200 0xF002) := by
  decide

/-- T-FAULT-2: the first byte is in memory, the second is not. -/
theorem test_fetch_out : (did .step (State.reset.setPc 0xFFF)).map State.status = some (.faulted .fetchOutOfBounds 0x0FFF 0) := by decide

/-! The host's commands. -/

/-- T-TICK-1. -/
theorem test_tick :
    (did .tick ((State.reset.setDt 5).setSt 1)).map (fun t => (t.dt, t.st)) = some (4, 0) ∧ toneTrigger ((State.reset.setDt 5).setSt 1) = true := by
  decide

/-- T-TICK-2: the floor is zero. -/
theorem test_tick_floor : (did .tick State.reset).map (fun t => (t.dt, t.st)) = some (0, 0) ∧ toneTrigger State.reset = false := by decide

/-- T-LOAD-4: a shorter image leaves the tail of the longer. -/
theorem test_load : (did (.load [9, 9]) (withBytes 0x200 [1, 2, 3, 4] State.reset)).map (fun t => readBytes t.mem 0x200 4) = some [9, 9, 3, 4] := by
  decide

/-- T-PRESS-1. -/
theorem test_press : (did (.pressKey 7 true) State.reset).map State.key = some (withKeys [7] State.reset).key := by decide

/-- T-PRESS-3. -/
theorem test_press_out : (did (.pressKey 16 true) State.reset).map State.status = some (.faulted .keyIndexOutOfRange 0x0010 0) := by decide

/-- T-RESET-1. -/
theorem test_reset : did .reset (withKeys [2] (withPixels [5] (withBytes 0x300 [0x55] (withStack 3 [] ((State.reset.setReg 3 0x77).setPc 0x456))))) =
    some State.reset := rfl

/-- T-FAULT-3: a faulted core ignores the commands. -/
theorem test_faulted_ignores :
    did .step faulted = some faulted ∧ did .tick faulted = some faulted ∧ did (.pressKey 1 true) faulted = some faulted ∧
    did (.load [0]) faulted = some faulted := ⟨rfl, rfl, rfl, rfl⟩

/-- T-RET-3 gives code 4, T-LOAD-3 code 7; 60_exceptions.md R701 gives 0 while running. -/
theorem test_status_code :
    statusCode State.reset = 0 ∧ statusCode faulted = 4 ∧ statusCode { State.reset with status := .faulted .imageTooLarge 0x0E01 0 } = 7 := by decide

/-- T-RND-3: the first four states and bytes of the simulation default (44_random.md R495). -/
theorem test_default_generator :
    Config.defaultRngStep Config.defaultRngSeed = (0x3C88596C, 0x3C) ∧ Config.defaultRngStep 0x3C88596C = (0x5E8885DB, 0x5E) ∧
    Config.defaultRngStep 0x5E8885DB = (0x8116017E, 0x81) ∧ Config.defaultRngStep 0x8116017E = (0xB4733AC5, 0xB4) := by decide

/-! For each statement with hypotheses, states and operands that meet them all, at the ends of their ranges. -/

/-- EncodeOfDecodeIsIdentity; DecodeAcceptsExactlyTheMap, both ways. -/
theorem test_meets_decoded_words :
    decodeWord 0x83F6 = .ok (.shr 3 15) ∧ ¬ ∃ r ∈ opcodeMap, r.selects 0xFFFF = true := by decide

/-- OpcodeRowsAreDisjoint. -/
theorem test_meets_row_selected : (⟨"SHL_Vx", 0xF00F, 0x800E⟩ : Row) ∈ opcodeMap ∧ Row.selects ⟨"SHL_Vx", 0xF00F, 0x800E⟩ 0x834E = true := by decide

/-- FetchReadsBigEndianPair: the last fetch in memory and the first past it. -/
theorem test_meets_fetch :
    (State.reset.setPc 0xFFE).pc.toNat + 1 ≤ 4095 ∧ (State.reset.setPc 0xFFF).pc.toNat + 1 > 4095 ∧ Running (State.reset.setPc 0xFFF) := by decide

/-- IllegalWordFaults: the last illegal word, at the last fetchable address. -/
theorem test_meets_illegal_word :
    Running (withBytes 0xFFE [0xFF, 0xFF] (State.reset.setPc 0xFFE)) ∧ (State.reset.setPc 0xFFE).pc.toNat ≤ 0xFFE ∧
    ∀ r ∈ opcodeMap, r.selects (wordAtPc (withBytes 0xFFE [0xFF, 0xFF] (State.reset.setPc 0xFFE))) = false := by decide

/-- StepRunsDecodedInstruction. -/
theorem test_meets_decoded_step :
    Running (withBytes 0xFFE [0xDD, 0xDD] (State.reset.setPc 0xFFE)) ∧
    decodeWord (wordAtPc (withBytes 0xFFE [0xDD, 0xDD] (State.reset.setPc 0xFFE))) = .ok (.drw 13 13 13) := by decide

/-- InstructionFaultsExactlyWhenListed: each fault at the first value that raises it. -/
theorem test_meets_own_fault :
    ownFault (.call 0x210) (withStack 16 [] State.reset) = some .stackOverflow ∧ ownFault .ret State.reset = some .stackUnderflow ∧
    ownFault (.skp 5) (State.reset.setReg 5 16) = some .keyIndexOutOfRange ∧
    ownFault (.sknp 5) (State.reset.setReg 5 16) = some .keyIndexOutOfRange ∧
    ownFault (.ldBVx 0) (State.reset.setI 0xFFE) = some .memoryOutOfBounds ∧
    ownFault (.ldMemVx 15) (State.reset.setI 0xFF1) = some .memoryOutOfBounds ∧
    ownFault (.ldVxMem 0) (State.reset.setI 0x1000) = some .memoryOutOfBounds ∧
    ownFault (.drw 0 0 1) (State.reset.setI 0x1000) = some .memoryOutOfBounds := by decide

/-- InstructionFaultsExactlyWhenListed: the last value that does not. -/
theorem test_meets_no_fault :
    ownFault (.call 0x210) (withStack 15 [] State.reset) = none ∧ ownFault .ret (withStack 1 [] State.reset) = none ∧
    ownFault (.skp 5) (State.reset.setReg 5 15) = none ∧ ownFault (.ldBVx 0) (State.reset.setI 0xFFD) = none ∧
    ownFault (.ldMemVx 15) (State.reset.setI 0xFF0) = none ∧ ownFault (.ldVxMem 0) (State.reset.setI 0xFFF) = none ∧
    ownFault (.drw 0 0 1) (State.reset.setI 0xFFF) = none ∧ ownFault (.drw 0 0 0) (State.reset.setI 0xFFFF) = none := by decide

/-- FaultIsStickyUntilReset. -/
theorem test_meets_faulted : FaultedWith faulted .stackUnderflow 0x200 0x00EE ∧ Command.step ≠ Command.reset := by decide

/-- NopOnlyAdvances: at the last fetchable address. -/
theorem test_meets_nop : Running (State.reset.setPc 0xFFE) ∧ (State.reset.setPc 0xFFE).pc.toNat ≤ 0xFFE ∧ wordAtPc (State.reset.setPc 0xFFE) = 0 := by decide

/-- CallPushesReturnAddress and ReturnPopsAddress: the stack almost full, full, empty, with one entry. -/
theorem test_meets_stack :
    (15 : Fin 16).val = (withStack 15 [] State.reset).sp.val ∧ (withStack 16 [] State.reset).sp = 16 ∧
    (15 : Fin 16).val + 1 = (withStack 16 [] State.reset).sp.val ∧ (0 : Fin 16).val + 1 = (withStack 1 [] State.reset).sp.val ∧
    State.reset.sp = 0 := by decide

/-- StackIsLastInFirstOut: the whole stack. -/
theorem test_meets_lifo : State.reset.sp.val + (List.replicate 16 (0x1000 : Word)).length ≤ 16 := by decide

/-- JumpsAndSkipsChangeOnlyPc: a jump, a key skip, a return and a call that raise no fault. -/
theorem test_meets_jump_and_skip :
    (∃ t, exec (.jp 0xFFF) State.reset = .next t ∧ Running t) ∧ (∃ t, exec (.skp 0) State.reset = .next t ∧ Running t) ∧
    (∃ t, exec .ret (withStack 1 [] State.reset) = .next t ∧ Running t) ∧ ∃ t, exec (.call 0) (withStack 15 [] State.reset) = .next t ∧ Running t :=
  ⟨⟨_, rfl, rfl⟩, ⟨_, rfl, rfl⟩, ⟨_, rfl, rfl⟩, ⟨_, rfl, rfl⟩⟩

/-- FlagRegisterAsOperand and RedrawKeepsPixelsAndCollides: a register that is not VF. -/
theorem test_meets_not_vf : (14 : Reg) ≠ 15 := by decide

/-- FlagInstructionsLeaveZeroOrOne and RegistersChangeOnlyAsListed: a draw that raises no fault writes VF and no other register. -/
theorem test_meets_flag_and_registers :
    isFlagInstr (.drw 0 1 0) = true ∧ (∃ t, exec (.drw 0 1 0) State.reset = .next t ∧ Running t) ∧ writesReg (.drw 0 1 0) 14 = false :=
  ⟨rfl, ⟨_, rfl, rfl⟩, rfl⟩

/-- DecimalDigitsAreStored, RegistersAreStored, RegistersAreLoaded, StoreThenLoadRestoresRegisters: the last run in memory and the first past it. -/
theorem test_meets_data_runs :
    (State.reset.setI 0xFFD).mem.wf ∧ (State.reset.setI 0xFFD).i.toNat + 2 ≤ 4095 ∧ (State.reset.setI 0xFFE).i.toNat + 2 > 4095 ∧
    (State.reset.setI 0xFF0).i.toNat + (15 : Reg).val ≤ 4095 ∧ (State.reset.setI 0xFF1).i.toNat + (15 : Reg).val > 4095 := by decide

/-- DataRunsAreBoundsChecked: both outcomes of each instruction. -/
theorem test_meets_bounds_checks :
    Running State.reset ∧ (∃ t, exec (.ldBVx 0) (State.reset.setI 0xFFD) = .next t ∧ Running t) ∧
    (∃ t, exec (.ldMemVx 15) (State.reset.setI 0xFF1) = .next t ∧ FaultedWith t .memoryOutOfBounds 0x1000 0xFF55) ∧
    (∃ t, exec (.ldVxMem 15) (State.reset.setI 0xFF1) = .next t ∧ FaultedWith t .memoryOutOfBounds 0x1000 0xFF65) ∧
    ∃ t, exec (.drw 0 1 15) (State.reset.setI 0xFF2) = .next t ∧ FaultedWith t .memoryOutOfBounds 0x1000 0xD01F :=
  ⟨rfl, ⟨_, rfl, rfl⟩, ⟨_, rfl, rfl⟩, ⟨_, rfl, rfl⟩, ⟨_, rfl, rfl⟩⟩

/-- StoreIsSeenByNextFetch: `pc` at the last two of sixteen bytes stored at the top of memory. -/
theorem test_meets_store_then_fetch :
    ((State.reset.setI 0xFF0).setPc 0xFFE).mem.wf ∧ (14 : Reg).val + 1 = (15 : Reg).val ∧
    ((State.reset.setI 0xFF0).setPc 0xFFE).pc.toNat = dataAddress ((State.reset.setI 0xFF0).setPc 0xFFE) (14 : Reg).val := by decide

/-- DrawLightsCoveredPixels: no rows, the last byte of memory, one byte too many. -/
theorem test_meets_draw :
    (0 : Nibble).toNat = 0 ∧ (State.reset.setI 0xFFF).i.toNat + (1 : Nibble).toNat - 1 ≤ 4095 ∧ (2 : Nibble).toNat > 0 ∧
    (State.reset.setI 0xFFF).i.toNat + (2 : Nibble).toNat - 1 > 4095 := by decide

/-- DrawLightsCoveredPixels: a covered pixel that is true before, and none. -/
theorem test_meets_collision :
    (∃ p, Covers ((withPixels [0] (withBytes 0x300 [0x80] State.reset)).setI 0x300) 0 1 1 p ∧ pixel (withPixels [0] State.reset).disp p = true) ∧
    ¬ ∃ p, Covers (State.reset.setI 0x300) 0 1 1 p ∧ pixel State.reset.disp p = true := by
  refine ⟨⟨0, ⟨0, by decide, 0, by decide, by decide, by decide⟩, by decide⟩, ?_⟩
  rintro ⟨p, ⟨r, hr, c, hc, hb, -⟩, -⟩
  obtain rfl : r = 0 := by omega
  revert hb
  simp [dataAddress, State.reset, readByte, background, Config.glyphSize]

/-- RedrawKeepsPixelsAndCollides: a first draw of fifteen rows at the top of memory that raises no fault. -/
theorem test_meets_redraw : ∃ t, exec (.drw 0 1 15) (State.reset.setI 0xFF1) = .next t ∧ Running t := ⟨_, rfl, rfl⟩

/-- PixelsGoOffOnlyByClear: the last pixel goes off. -/
theorem test_meets_pixel_off :
    ∃ t, exec .cls (withPixels [2047] State.reset) = .next t ∧ Running t ∧ pixel (withPixels [2047] State.reset).disp 2047 = true ∧
      pixel t.disp 2047 = false ∧ t.disp ≠ (withPixels [2047] State.reset).disp :=
  ⟨_, rfl, rfl, by decide, by decide, by decide⟩

/-- KeySkipsFollowTheLatch: the last key, and the first index that is none. -/
theorem test_meets_key_index :
    (15 : Fin 16).val = ((State.reset.setReg 5 15).reg 5).toNat ∧ ((State.reset.setReg 5 16).reg 5).toNat > 15 := by decide

/-- KeyWaitTakesLowestKey: only the last key pressed, and none. -/
theorem test_meets_key_wait :
    (withKeys [15] State.reset).key.get 15 = true ∧ (∀ j : Fin 16, j < 15 → (withKeys [15] State.reset).key.get j = false) ∧
    ∀ k, State.reset.key.get k = false := by decide

/-- KeyWaitPollsInPlace. -/
theorem test_meets_key_poll :
    Running (withBytes 0x200 [0xF2, 0x0A] State.reset) ∧ wordAtPc (withBytes 0x200 [0xF2, 0x0A] State.reset) = encode (.ldVxK 2) ∧
    ∀ k, (withBytes 0x200 [0xF2, 0x0A] State.reset).key.get k = false := by decide

/-- TickCountsDown, TimersReachZeroAfterExactlyNTicks, ToneTriggersOnLastTick: a running core, ST = 1 and ST = 2. -/
theorem test_meets_tick :
    Running (State.reset.setSt 1) ∧ toneTrigger (State.reset.setSt 1) = true ∧ toneTrigger (State.reset.setSt 2) = false ∧
    ∃ t, command .tick (State.reset.setSt 1) = .next t ∧ t.st.toNat = 0 := by
  refine ⟨rfl, by decide, by decide, _, rfl, by decide⟩

/-- LoadWritesTheImage and BootRunsTheFirstInstruction: the longest image, one byte more, and what may follow an instruction in it. -/
theorem test_meets_image :
    (List.replicate 3584 (0xAA : Byte)).length ≤ 3584 ∧ (List.replicate 3585 (0xAA : Byte)).length > 3584 ∧
    (List.replicate 3582 (0xAA : Byte)).length ≤ 3582 ∧ Running State.reset ∧ State.reset.mem.wf := by
  simp only [List.length_replicate]
  exact ⟨by decide, by decide, by decide, rfl, Memory.wf_nil⟩

/-- ResetSetsEveryElement: the state after RESET of a faulted core. -/
theorem test_meets_reset : ∃ t, command .reset faulted = .next t := ⟨_, rfl⟩

/-- PressKeySetsOneFlag: the last key, the first index past it, the last that the record holds. -/
theorem test_meets_press : 15 ≤ 15 ∧ 16 > 15 ∧ 0xFFFF > 15 ∧ 0xFFFF ≤ 0xFFFF := by decide

/-- ParkedStateIsAFixedPoint (T-JP-2). -/
theorem test_meets_parked : Parked (withBytes 0x200 [0x12, 0x00] State.reset) := by decide

/-- SpecialStateWrittenOnlyAsListed: I, the stack, the timers and memory do change. -/
theorem test_meets_special :
    (∃ t, exec (.ldI 1) State.reset = .next t ∧ Running t ∧ t.i ≠ State.reset.i) ∧
    (∃ t, exec (.call 0) State.reset = .next t ∧ Running t ∧ t.sp ≠ State.reset.sp) ∧
    (∃ t, exec (.ldDtVx 0) (State.reset.setReg 0 1) = .next t ∧ Running t ∧ t.dt ≠ State.reset.dt) ∧
    (∃ t, exec (.ldStVx 0) (State.reset.setReg 0 1) = .next t ∧ Running t ∧ t.st ≠ State.reset.st) ∧
    ∃ t, exec (.ldMemVx 0) ((State.reset.setReg 0 1).setI 0xFFF) = .next t ∧ Running t ∧ readByte t.mem 0xFFF ≠ readByte State.reset.mem 0xFFF := by
  refine ⟨⟨_, rfl, rfl, ?_⟩, ⟨_, rfl, rfl, ?_⟩, ⟨_, rfl, rfl, ?_⟩, ⟨_, rfl, rfl, ?_⟩, ⟨_, rfl, rfl, ?_⟩⟩ <;> decide

/-- HostCommandsKeepTheGenerator: PRESS_KEY of the last key. -/
theorem test_meets_host_command :
    Command.pressKey 15 true ≠ .reset ∧ Command.pressKey 15 true ≠ .step ∧ ∃ t, command (.pressKey 15 true) State.reset = .next t ∧ Running t :=
  ⟨by decide, by decide, _, rfl, rfl⟩

/-- StepKeepsInvariant and CommandsKeepInvariant: a core with a full stack of the highest return addresses and `pc` at its bound. -/
theorem test_meets_invariant :
    Invariant ((withBytes 0x200 [1, 2] (withStack 16 (List.replicate 16 0x1000) State.reset)).setPc 0x10FE) ∧
    (∃ t, step ((withBytes 0x200 [1, 2] (withStack 16 (List.replicate 16 0x1000) State.reset)).setPc 0x10FE) = .next t) ∧
    ∃ t, commands [.tick] ((withBytes 0x200 [1, 2] (withStack 16 (List.replicate 16 0x1000) State.reset)).setPc 0x10FE) = .next t := by
  refine ⟨⟨by decide, fun _ => by decide⟩, ⟨_, rfl⟩, ⟨_, rfl⟩⟩

/-- RunsAfterResetReproduce: a faulted core, reset and commanded on. -/
theorem test_meets_reproduce : ∃ t, commands [.pressKey 15 true, .tick] faulted.resetFrom = .next t ∧ Running t := ⟨_, rfl, rfl⟩

/-- StatusCodesAreNumbered: a core faulted with the first code and with the last, and a running one. -/
theorem test_meets_status_codes :
    FaultedWith { State.reset with status := .faulted .fetchOutOfBounds 0x0FFF 0 } .fetchOutOfBounds 0x0FFF 0 ∧
    FaultedWith { State.reset with status := .faulted .imageTooLarge 0x0E01 0 } .imageTooLarge 0x0E01 0 ∧ Running State.reset := by decide

/-- CommandsKeepStatesAlike: two running states that differ in the counter alone, and two faulted ones that differ in more. -/
theorem test_meets_alike :
    (SameToTheHost { State.reset with freeIndex := 1 } State.reset ∧ ∃ t, command .step { State.reset with freeIndex := 1 } = .next t) ∧
    SameToTheHost (faulted.setReg 0 1) faulted ∧ ∃ t, command .reset (faulted.setReg 0 1) = .next t :=
  ⟨⟨⟨rfl, fun _ => rfl⟩, _, rfl⟩, ⟨rfl, fun h => nomatch h⟩, _, rfl⟩

end Sys2Proof.Tests
end

section
/-!
The effect of an instruction that raises no fault, element by element: for each element of the state, the instructions that write it
(10_state.md R103, R111, R135; 20_memory.md R201) and what they write. `exec_eq` ties it to the meanings: an instruction takes its own fault or
has its effect, so what an instruction keeps is read off the definition of the element.
-/
namespace Sys2Proof.Machine

/-- What DXYN draws: the display after it and whether a pixel collided (45_display.md R502). -/
def drawn (x y : Reg) (n : Nibble) (s : State) : Display × Bool :=
  drawSprite s.disp (s.reg x) (s.reg y) (readBytes s.mem (dataAddress s 0) n.toNat)

/-- Memory after `i`. -/
def memAfter (i : Instr) (s : State) : Memory :=
  match i with
  | .ldBVx x => writeBytes s.mem (dataAddress s 0) (decimalDigits (s.reg x))
  | .ldMemVx x => writeBytes s.mem (dataAddress s 0) (regsUpTo s x)
  | _ => s.mem

/-- The state with the general registers as `i` leaves them, nothing else of its effect. -/
def withRegsAfter (i : Instr) (s : State) : State :=
  match i with
  | .ldImm x nn => s.setReg x nn
  | .addImm x nn => s.setReg x (sum8 (s.reg x) nn)
  | .ldReg x y => s.setReg x (s.reg y)
  | .orReg x y => s.setReg x (s.reg x ||| s.reg y)
  | .andReg x y => s.setReg x (s.reg x &&& s.reg y)
  | .xorReg x y => s.setReg x (s.reg x ^^^ s.reg y)
  | .addReg x y => s.setRegFlag x (sum8 (s.reg x) (s.reg y)) (carryOut (s.reg x) (s.reg y))
  | .subReg x y => s.setRegFlag x (diff8 (s.reg x) (s.reg y)) (noBorrow (s.reg x) (s.reg y))
  | .shr x _ => s.setRegFlag x (s.reg x >>> 1) ((s.reg x).getLsbD 0)
  | .subnReg x y => s.setRegFlag x (diff8 (s.reg y) (s.reg x)) (noBorrow (s.reg y) (s.reg x))
  | .shl x _ => s.setRegFlag x (s.reg x <<< 1) ((s.reg x).getLsbD 7)
  | .rnd x nn => s.setReg x ((Config.rngStep s.rng).2 &&& nn)
  | .drw x y n => s.setReg vf (flagByte (drawn x y n s).2)
  | .ldVxDt x => s.setReg x s.dt
  | .ldVxK x => (lowestPressed s.key).elim s fun k => s.setReg x (BitVec.ofNat 8 k.val)
  | .ldVxMem x => s.setV (loadRegs s (dataAddress s 0) x)
  | _ => s

/-- I after `i`. -/
def indexAfter (i : Instr) (s : State) : Word :=
  match i with
  | .ldI nnn => addrOperand nnn
  | .addIVx x => s.i + zext16 (s.reg x)
  | .ldFVx x => zext16 (s.reg x) * 5
  | _ => s.i

/-- `pc` after a skip (41_skip.md R424). -/
def skipPc (c : Bool) (s : State) : Word := if c then s.pc + 2 else s.pc

/-- `pc` after `i`; the fetch has already moved it past the instruction (10_state.md R111). -/
def pcAfter (i : Instr) (s : State) : Word :=
  match i with
  | .ret => s.stack[s.sp.val - 1]
  | .jp nnn | .call nnn => addrOperand nnn
  | .jpV0 nnn => zext16 (s.reg 0) + addrOperand nnn
  | .seImm x nn => skipPc (s.reg x == nn) s
  | .sneImm x nn => skipPc (s.reg x != nn) s
  | .seReg x y => skipPc (s.reg x == s.reg y) s
  | .sneReg x y => skipPc (s.reg x != s.reg y) s
  | .skp x => skipPc ((s.keyAt (s.reg x).toNat).any id) s
  | .sknp x => skipPc ((s.keyAt (s.reg x).toNat).any not) s
  | .ldVxK _ => (lowestPressed s.key).elim s.instrAddr fun _ => s.pc
  | _ => s.pc

/-- The call stack's entries after `i`. -/
def stackAfter (i : Instr) (s : State) : Vector Word 16 :=
  match i with
  | .call _ => if h : s.sp.val < 16 then s.stack.set s.sp.val s.pc else s.stack
  | _ => s.stack

/-- `sp` after `i`. -/
def spAfter (i : Instr) (s : State) : Fin 17 :=
  match i with
  | .ret => s.sp - 1
  | .call _ => s.sp + 1
  | _ => s.sp

/-- The display after `i`. -/
def dispAfter (i : Instr) (s : State) : Display :=
  match i with
  | .cls => blankDisplay
  | .drw x y n => (drawn x y n s).1
  | _ => s.disp

/-- DT after `i`. -/
def dtAfter (i : Instr) (s : State) : Byte :=
  match i with
  | .ldDtVx x => s.reg x
  | _ => s.dt

/-- ST after `i`. -/
def stAfter (i : Instr) (s : State) : Byte :=
  match i with
  | .ldStVx x => s.reg x
  | _ => s.st

/-- The generator state after `i`. -/
def rngAfter (i : Instr) (s : State) : BitVec 32 :=
  match i with
  | .rnd _ _ => (Config.rngStep s.rng).1
  | _ => s.rng

/-- The whole effect of `i`. The keypad latch and the status stay (10_state.md R128, R130). -/
def effect (i : Instr) (s : State) : State :=
  { s with
    mem := memAfter i s, v := (withRegsAfter i s).v, i := indexAfter i s, pc := pcAfter i s, stack := stackAfter i s, sp := spAfter i s,
    disp := dispAfter i s, dt := dtAfter i s, st := stAfter i s, rng := rngAfter i s }

/-- What `i` answers: its own fault with the record of 60_exceptions.md R701, or its effect. -/
def answer (i : Instr) (s : State) : State :=
  (ownFault i s).elim (effect i s) fun f => takeFault f (recordedAddr f s) (encode i) s

theorem answer_of_no_fault {i : Instr} {s : State} (h : ownFault i s = none) : answer i s = effect i s := by rw [answer, h]; rfl

theorem answer_of_fault {i : Instr} {s : State} {f : Fault} (h : ownFault i s = some f) :
    answer i s = takeFault f (recordedAddr f s) (encode i) s := by rw [answer, h]; rfl

/-- The answer of an instruction that raises one fault under one condition. -/
theorem answer_of_fault_if {i : Instr} {s : State} {p : Prop} [Decidable p] {f : Fault} (h : ownFault i s = if p then some f else none) :
    answer i s = if p then takeFault f (recordedAddr f s) (encode i) s else effect i s := by
  by_cases hp : p
  · rw [if_pos hp, answer_of_fault (by rw [h, if_pos hp])]
  · rw [if_neg hp, answer_of_no_fault (by rw [h, if_neg hp])]

/-! The instructions that can fault: the conditions of `ownFault` are those of the meanings. -/

/-- A data address in a fault record never saturates: I is a 16-bit word. -/
theorem saturate16_index (s : State) : saturate16 (max s.i.toNat 4096) = recordedAddr .memoryOutOfBounds s := by
  have := s.i.isLt
  rw [saturate16, recordedAddr, Nat.min_eq_left (by omega)]

/-- An instruction that reaches a run of bytes: the condition of `ownFault`, `p`, is that of the bounds check. -/
theorem withDataRun_eq_answer {i : Instr} {len : Nat} {s : State} {p : Prop} [Decidable p]
    (h : ownFault i s = if p then some .memoryOutOfBounds else none) (hp : p ↔ ¬ (len = 0 ∨ s.i.toNat + len ≤ 4096)) :
    withDataRun i len s (effect i s) = .next (answer i s) := by
  rw [withDataRun_eq, answer_of_fault_if h, saturate16_index]
  simp only [hp, ite_not]

theorem execRet_eq (s : State) : execRet s = .next (answer .ret s) := by
  rw [answer_of_fault_if (i := .ret) rfl]
  by_cases h : s.sp = 0
  · rw [if_pos h, execRet, s.pop_of_empty (congrArg Fin.val h)]
    rfl
  · obtain ⟨t, hpop, hsp, ht⟩ := s.pop_of_pos (Fin.val_ne_of_ne h)
    have : t.sp = s.sp - 1 := Fin.ext (by rw [hsp, Fin.val_sub_one_of_ne_zero h])
    rw [if_neg h, execRet, hpop, ht, this]
    rfl

theorem execCall_eq (nnn : Addr12) (s : State) : execCall nnn s = .next (answer (.call nnn) s) := by
  rw [answer_of_fault_if (i := .call nnn) rfl]
  by_cases h : s.sp = 16
  · rw [if_pos h, execCall, s.push_of_full s.pc (congrArg Fin.val h)]
    rfl
  · have hlt : s.sp.val < 16 := by omega
    obtain ⟨t, hpush, hsp, hstack, ht⟩ := s.push_of_lt s.pc hlt
    have hsp : t.sp = s.sp + 1 := Fin.ext (by rw [hsp, Fin.val_add_one_of_lt hlt])
    have hstack : t.stack = stackAfter (.call nnn) s := by rw [hstack, stackAfter, dif_pos hlt]
    rw [if_neg h, execCall, hpush, ht, hsp, hstack]
    rfl

theorem keyAt_of_gt {s : State} {k : Nat} (h : k > 15) : s.keyAt k = none := dif_neg (by omega)

theorem keyAt_of_le {s : State} {k : Nat} (h : ¬ k > 15) : ∃ b, s.keyAt k = some b := ⟨_, dif_pos (by omega)⟩

theorem skipIf_eq_setPc (c : Bool) (s : State) : skipIf c s = s.setPc (skipPc c s) := skipIf_eq c s

theorem execSkp_eq (x : Reg) (s : State) : execSkp x s = .next (answer (.skp x) s) := by
  rw [answer_of_fault_if (i := .skp x) rfl]
  by_cases h : (s.reg x).toNat > 15
  · rw [if_pos h, execSkp, keyAt_of_gt h]
    rfl
  · obtain ⟨b, hb⟩ := keyAt_of_le (s := s) h
    rw [if_neg h, effect, pcAfter, execSkp, hb]
    exact congrArg Host.Outcome.next (skipIf_eq_setPc b s)

theorem execSknp_eq (x : Reg) (s : State) : execSknp x s = .next (answer (.sknp x) s) := by
  rw [answer_of_fault_if (i := .sknp x) rfl]
  by_cases h : (s.reg x).toNat > 15
  · rw [if_pos h, execSknp, keyAt_of_gt h]
    rfl
  · obtain ⟨b, hb⟩ := keyAt_of_le (s := s) h
    rw [if_neg h, effect, pcAfter, execSknp, hb]
    exact congrArg Host.Outcome.next (skipIf_eq_setPc (!b) s)

theorem execLdVxK_eq (x : Reg) (s : State) : execLdVxK x s = .next (answer (.ldVxK x) s) := by
  rw [answer_of_no_fault rfl, effect, withRegsAfter, pcAfter, execLdVxK]
  cases lowestPressed s.key <;> rfl

/-- An instruction takes its own fault or has its effect. -/
theorem exec_eq (i : Instr) (s : State) : exec i s = .next (answer i s) := by
  cases i with
  | ret => exact execRet_eq s
  | call nnn => exact execCall_eq nnn s
  | skp x => exact execSkp_eq x s
  | sknp x => exact execSknp_eq x s
  | ldVxK x => exact execLdVxK_eq x s
  | ldBVx x => exact withDataRun_eq_answer (i := .ldBVx x) rfl (by omega)
  | ldMemVx x => exact withDataRun_eq_answer (i := .ldMemVx x) rfl (by omega)
  | ldVxMem x => exact withDataRun_eq_answer (i := .ldVxMem x) rfl (by omega)
  | drw x y n => exact withDataRun_eq_answer (i := .drw x y n) rfl (by omega)
  | seImm | sneImm | seReg | sneReg => exact congrArg Host.Outcome.next (skipIf_eq_setPc _ s)
  | _ => rfl

theorem exec_cases {i : Instr} {s t : State} (h : exec i s = .next t) :
    (ownFault i s = none ∧ t = effect i s) ∨ ∃ f a w, t = takeFault f a w s := by
  rw [exec_eq] at h
  injection h with h
  cases hf : ownFault i s with
  | none => exact .inl ⟨rfl, by rw [← h, answer_of_no_fault hf]⟩
  | some f => exact .inr ⟨_, _, _, by rw [← h, answer_of_fault hf]⟩

/-- An instruction after which the core runs has had its effect. -/
theorem eq_effect_of_running {i : Instr} {s t : State} (h : exec i s = .next t) (hr : Running t) : t = effect i s := by
  obtain ⟨-, rfl⟩ | ⟨f, a, w, rfl⟩ := exec_cases h
  · rfl
  · cases hr

end Sys2Proof.Machine
end

section
/-!
The step and the commands, by the status of the core.
-/
namespace Sys2Proof.Machine

theorem running_or_faulted (s : State) : Running s ∨ ∃ f a w, FaultedWith s f a w := by
  cases h : s.status with
  | running => exact .inl h
  | faulted f a w => exact .inr ⟨f, a, w, h⟩

theorem fetchDecode_of_decode {s : State} {i : Instr} (hpc : s.pc.toNat ≤ 0xFFE) (hd : decodeWord (wordAtPc s) = .ok i) :
    fetchDecode s = .ok (i, s.setPc (s.pc + 2)) := by
  rw [fetchDecode, fetch_of_le s hpc]
  simp only [hd]

theorem fetchDecode_of_reject {s : State} {r : DecodeReject} (hpc : s.pc.toNat ≤ 0xFFE) (hd : decodeWord (wordAtPc s) = .error r) :
    fetchDecode s = .error (takeFault .unimplementedInstruction (s.pc + 2 - 2) (wordAtPc s) s) := by
  rw [fetchDecode, fetch_of_le s hpc]
  simp only [hd]
  rfl

theorem fetchDecode_of_gt {s : State} (hpc : 0xFFE < s.pc.toNat) : fetchDecode s = .error (takeFault .fetchOutOfBounds s.pc 0 s) := by
  rw [fetchDecode, fetch_of_gt s hpc]

theorem step_of_faulted {s : State} {f : Fault} {a w : Word} (h : FaultedWith s f a w) : step s = .next s := by
  rw [step, h]

/-- A running core executes the instruction at `pc`, with `pc` moved past it, or takes a fault of the fetch or of the decode. -/
theorem step_of_running {s : State} (h : Running s) :
    (∃ i, s.pc.toNat ≤ 0xFFE ∧ step s = exec i (s.setPc (s.pc + 2))) ∨ ∃ f a w, step s = .next (takeFault f a w s) := by
  obtain ⟨i, hpc, hd⟩ | ⟨f, a, w, hd⟩ := fetchDecode_cases s
  · exact .inl ⟨i, hpc, by rw [step, h, hd]⟩
  · exact .inr ⟨f, a, w, by rw [step, h, hd]⟩

theorem whenRunning_of_faulted {s : State} {f : Fault} {a w : Word} (h : FaultedWith s f a w) (t : State) : whenRunning s t = s := by
  rw [whenRunning, h]

/-- A faulted core ignores every command but RESET (60_exceptions.md R712). -/
theorem command_of_faulted {s : State} {f : Fault} {a w : Word} (h : FaultedWith s f a w) {c : Command} (hc : c ≠ .reset) :
    command c s = .next s := by
  cases c with
  | reset => exact absurd rfl hc
  | step => exact step_of_faulted h
  | load | pressKey | tick => exact congrArg Host.Outcome.next (whenRunning_of_faulted h _)
  | getDisplay => rfl

end Sys2Proof.Machine
end

section
/-!
What an instruction that raises no fault keeps, read off its effect.
-/
namespace Sys2Proof.Machine

@[simp] theorem reg_effect (i : Instr) (s : State) (k : Reg) : (effect i s).reg k = (withRegsAfter i s).reg k := rfl

/-- A register outside the list of 10_state.md R103 is kept. -/
theorem reg_withRegsAfter_of_not_written {i : Instr} {s : State} {k : Reg} (h : writesReg i k = false) :
    (withRegsAfter i s).reg k = s.reg k := by
  cases i with
  | ldVxK x =>
    have hk : k ≠ x := of_decide_eq_false h
    cases hl : lowestPressed s.key <;> simp [withRegsAfter, hl, hk]
  | _ => simp_all [withRegsAfter, writesReg]

/-- A flag instruction ends by writing a flag to VF (10_state.md R106). -/
theorem reg_vf_withRegsAfter {i : Instr} (h : isFlagInstr i = true) (s : State) :
    ∃ c, (withRegsAfter i s).reg vf = flagByte c := by
  cases i with
  | addReg | subReg | shr | subnReg | shl => exact ⟨_, (State.reg_setRegFlag ..).trans (if_pos rfl)⟩
  | drw => exact ⟨_, (State.reg_setReg ..).trans (if_pos rfl)⟩
  | _ => cases h

theorem of_memAfter_ne {i : Instr} {s : State} (h : memAfter i s ≠ s.mem) : (∃ x, i = .ldBVx x) ∨ ∃ x, i = .ldMemVx x := by
  unfold memAfter at h
  split at h
  · exact .inl ⟨_, rfl⟩
  · exact .inr ⟨_, rfl⟩
  · exact absurd rfl h

theorem of_indexAfter_ne {i : Instr} {s : State} (h : indexAfter i s ≠ s.i) :
    (∃ nnn, i = .ldI nnn) ∨ (∃ x, i = .addIVx x) ∨ ∃ x, i = .ldFVx x := by
  unfold indexAfter at h
  split at h
  · exact .inl ⟨_, rfl⟩
  · exact .inr (.inl ⟨_, rfl⟩)
  · exact .inr (.inr ⟨_, rfl⟩)
  · exact absurd rfl h

theorem of_stackAfter_ne {i : Instr} {s : State} (h : stackAfter i s ≠ s.stack) : ∃ nnn, i = .call nnn := by
  unfold stackAfter at h
  split at h
  · exact ⟨_, rfl⟩
  · exact absurd rfl h

theorem of_spAfter_ne {i : Instr} {s : State} (h : spAfter i s ≠ s.sp) : i = .ret ∨ ∃ nnn, i = .call nnn := by
  unfold spAfter at h
  split at h
  · exact .inl rfl
  · exact .inr ⟨_, rfl⟩
  · exact absurd rfl h

theorem of_dtAfter_ne {i : Instr} {s : State} (h : dtAfter i s ≠ s.dt) : ∃ x, i = .ldDtVx x := by
  unfold dtAfter at h
  split at h
  · exact ⟨_, rfl⟩
  · exact absurd rfl h

theorem of_stAfter_ne {i : Instr} {s : State} (h : stAfter i s ≠ s.st) : ∃ x, i = .ldStVx x := by
  unfold stAfter at h
  split at h
  · exact ⟨_, rfl⟩
  · exact absurd rfl h

theorem of_rngAfter_ne {i : Instr} {s : State} (h : rngAfter i s ≠ s.rng) : ∃ x nn, i = .rnd x nn := by
  unfold rngAfter at h
  split at h
  · exact ⟨_, _, rfl⟩
  · exact absurd rfl h

/-- Settles O25: the core still runs, so the instruction had its effect, which ends with the write of the flag. -/
theorem flagInstructionsLeaveZeroOrOne : Obligations.FlagInstructionsLeaveZeroOrOne := by
  intro i s t hi he hr
  obtain rfl := eq_effect_of_running he hr
  obtain ⟨c, hc⟩ := reg_vf_withRegsAfter hi s
  rw [reg_effect, hc]
  cases c
  · exact .inl rfl
  · exact .inr rfl

/-- Settles O26, by the list of the registers that an effect writes. -/
theorem registersChangeOnlyAsListed : Obligations.RegistersChangeOnlyAsListed := by
  intro i s t k he hr hk
  obtain rfl := eq_effect_of_running he hr
  exact reg_withRegsAfter_of_not_written hk

/-- Settles O53, element by element of the effect. -/
theorem specialStateWrittenOnlyAsListed : Obligations.SpecialStateWrittenOnlyAsListed := by
  intro i s t he hr
  obtain rfl := eq_effect_of_running he hr
  refine ⟨of_indexAfter_ne, ?stack, of_dtAfter_ne, of_stAfter_ne, of_rngAfter_ne, rfl, ?mem⟩
  case stack =>
    rintro (hsp | hstack)
    · exact of_spAfter_ne hsp
    · exact .inr (of_stackAfter_ne hstack)
  case mem =>
    rintro ⟨a, ha⟩
    exact of_memAfter_ne fun hmem => ha (congrArg (readByte · a) hmem)

end Sys2Proof.Machine
end

section
/-!
The invariant (10_state.md R114): it holds at reset, every instruction executed behind a fetch keeps it, so every step and every command do.
-/
namespace Sys2Proof.Machine

/-- Every return address in use is at most 0x1000. -/
abbrev ReturnsBounded (s : State) : Prop := ∀ k : Fin 16, k.val < s.sp.val → (s.stack.get k).toNat ≤ 0x1000

theorem sp_ne_zero_of_ret {s : State} (h : ownFault .ret s = none) : s.sp ≠ 0 := fun hsp => by simp [ownFault, hsp] at h

theorem sp_lt_of_call {nnn : Addr12} {s : State} (h : ownFault (.call nnn) s = none) : s.sp.val < 16 := by
  have : s.sp ≠ 16 := fun hsp => by simp [ownFault, hsp] at h
  omega

theorem memAfter_wf {s : State} (h : s.mem.wf) (i : Instr) : (memAfter i s).wf := by
  unfold memAfter
  split
  · exact writeBytes_wf h _ _
  · exact writeBytes_wf h _ _
  · exact h

theorem skipPc_le (c : Bool) (s : State) : (skipPc c s).toNat ≤ s.pc.toNat + 2 := by
  cases c
  · exact Nat.le_add_right _ _
  · exact (BitVec.toNat_add _ _).trans_le (Nat.mod_le _ _)

/-- The highest targets: a jump's is 0x0FFF, that of JP V0 is 0x0FFF + 0xFF, a skip's is 0x1002, a return's is 0x1000. -/
theorem pcAfter_le {i : Instr} {s : State} (hf : ownFault i s = none) (hlow : 2 ≤ s.pc.toNat) (hpc : s.pc.toNat ≤ 0x1000)
    (hret : ReturnsBounded s) : (pcAfter i s).toNat ≤ 0x10FE := by
  cases i with
  | jp nnn | call nnn =>
    have := nnn.isLt
    rw [pcAfter, toNat_addrOperand]
    omega
  | jpV0 nnn =>
    have := nnn.isLt
    have := (s.reg 0).isLt
    rw [pcAfter, BitVec.toNat_add, toNat_zext16, toNat_addrOperand]
    omega
  | ret =>
    have hsp : s.sp.val ≠ 0 := Fin.val_ne_of_ne (sp_ne_zero_of_ret hf)
    exact (hret ⟨s.sp.val - 1, by omega⟩ (Nat.sub_one_lt hsp)).trans (by decide)
  | ldVxK x =>
    rw [pcAfter]
    cases lowestPressed s.key
    · rw [Option.elim_none, State.instrAddr, BitVec.toNat_sub_of_le hlow]
      omega
    · rw [Option.elim_some]
      omega
  | seImm | sneImm | seReg | sneReg | skp | sknp => exact (skipPc_le _ s).trans (by omega)
  | _ => exact hpc.trans (by decide)

/-- Only CALL adds a return address, and that is `pc`. -/
theorem returnsBounded_effect {i : Instr} {s : State} (hf : ownFault i s = none) (hpc : s.pc.toNat ≤ 0x1000) (hret : ReturnsBounded s) :
    ReturnsBounded (effect i s) := by
  cases i with
  | ret =>
    have hval : (s.sp - 1).val = s.sp.val - 1 := Fin.val_sub_one_of_ne_zero (sp_ne_zero_of_ret hf)
    exact fun k hk => hret k (by simp only [effect, spAfter] at hk; omega)
  | call nnn =>
    have hlt := sp_lt_of_call hf
    have hval : (s.sp + 1).val = s.sp.val + 1 := Fin.val_add_one_of_lt hlt
    intro k hk
    simp only [effect, stackAfter, spAfter, dif_pos hlt, Vector.get_eq_getElem, Vector.getElem_set, hval] at hk ⊢
    split
    · exact hpc
    · exact hret k (by omega)
  | _ => exact hret

theorem invariant_takeFault (f : Fault) (a w : Word) (s : State) : Invariant (takeFault f a w s) := ⟨takeFault_mem_wf f a w s, nofun⟩

/-- An instruction executed behind a fetch keeps the invariant. -/
theorem exec_invariant {i : Instr} {s t : State} (h : exec i s = .next t) (hmem : s.mem.wf) (hlow : 2 ≤ s.pc.toNat)
    (hpc : s.pc.toNat ≤ 0x1000) (hret : ReturnsBounded s) : Invariant t := by
  obtain ⟨hf, rfl⟩ | ⟨f, a, w, rfl⟩ := exec_cases h
  · exact ⟨memAfter_wf hmem i, fun _ => ⟨pcAfter_le hf hlow hpc hret, returnsBounded_effect hf hpc hret⟩⟩
  · exact invariant_takeFault f a w s

/-- Settles O55: memory lists nothing and no stack entry is in use. -/
theorem invariantHoldsAtReset : Obligations.InvariantHoldsAtReset :=
  ⟨reset_mem_wf, fun _ => ⟨by decide, fun _ hk => absurd hk (Nat.not_lt_zero _)⟩⟩

/-- Settles O56: the step keeps a faulted core, takes a fault of the fetch, or executes an instruction with `pc` moved past it. -/
theorem stepKeepsInvariant : Obligations.StepKeepsInvariant := by
  intro s t hs h
  obtain hrun | ⟨f, a, w, hfault⟩ := running_or_faulted s
  · obtain ⟨hmem, hbounds⟩ := hs
    obtain ⟨-, hret⟩ := hbounds hrun
    obtain ⟨i, hpc, hstep⟩ | ⟨f, a, w, hstep⟩ := step_of_running hrun
    · rw [hstep] at h
      have hnext : (s.pc + 2).toNat = s.pc.toNat + 2 := by bv_omega
      exact exec_invariant h hmem (by rw [State.setPc_pc]; omega) (by rw [State.setPc_pc]; omega) hret
    · rw [hstep] at h
      exact Host.Outcome.next.inj h ▸ invariant_takeFault f a w s
  · rw [step_of_faulted hfault] at h
    exact Host.Outcome.next.inj h ▸ hs

theorem loadImage_invariant {s : State} (h : Invariant s) (bytes : List Byte) : Invariant (loadImage bytes s) := by
  unfold loadImage
  split
  · exact ⟨writeBytes_wf h.1 _ _, h.2⟩
  · exact invariant_takeFault _ _ _ _

theorem pressKey_invariant {s : State} (h : Invariant s) (index : Nat) (pressed : Bool) : Invariant (pressKey index pressed s) := by
  unfold pressKey
  split
  · exact h
  · exact invariant_takeFault _ _ _ _

theorem whenRunning_invariant {s t : State} (hs : Invariant s) (ht : Invariant t) : Invariant (whenRunning s t) := by
  unfold whenRunning
  split
  · exact ht
  · exact hs

/-- Every command keeps the invariant. -/
theorem command_invariant {c : Command} {s t : State} (hs : Invariant s) (h : command c s = .next t) : Invariant t := by
  cases c with
  | step => exact stepKeepsInvariant s t hs h
  | reset => exact Host.Outcome.next.inj h ▸ invariantHoldsAtReset
  | load bytes => exact Host.Outcome.next.inj h ▸ whenRunning_invariant hs (loadImage_invariant hs bytes)
  | pressKey index pressed => exact Host.Outcome.next.inj h ▸ whenRunning_invariant hs (pressKey_invariant hs index pressed)
  | tick => exact Host.Outcome.next.inj h ▸ whenRunning_invariant hs hs
  | getDisplay => exact Host.Outcome.next.inj h ▸ hs

/-- Settles O57, by induction on the commands. -/
theorem commandsKeepInvariant : Obligations.CommandsKeepInvariant := by
  intro cs
  induction cs with
  | nil =>
    intro s t hs h
    exact Host.Outcome.next.inj h ▸ hs
  | cons c cs ih =>
    intro s t hs h
    rw [commands] at h
    split at h
    · exact ih _ t (command_invariant hs ‹_›) h
    · cases h
    · cases h

end Sys2Proof.Machine
end

section
/-!
No command sees the model's own counter of free values (log 2) but through what a fault leaves: of two states that are the same to the host,
every command makes two that are.
-/
namespace Sys2Proof.Machine

/-- Writing the counter of free values. -/
def State.setFreeIndex (s : State) (n : Nat) : State := { s with freeIndex := n }

theorem sameToTheHost_setFreeIndex (t : State) (n : Nat) : SameToTheHost (t.setFreeIndex n) t := ⟨rfl, fun _ => rfl⟩

theorem sameToTheHost_takeFault (f : Fault) (a w : Word) (s t : State) : SameToTheHost (takeFault f a w s) (takeFault f a w t) :=
  ⟨rfl, nofun⟩

theorem sameToTheHost_resetFrom (s t : State) : SameToTheHost s.resetFrom t.resetFrom := ⟨rfl, fun _ => rfl⟩

/-- Two states the same to the host hold the same fault record, or run and differ in the counter alone. -/
theorem sameToTheHost_cases {s t : State} (h : SameToTheHost s t) :
    (∃ f a w, FaultedWith s f a w ∧ FaultedWith t f a w) ∨ (Running t ∧ ∃ n, s = t.setFreeIndex n) := by
  obtain ⟨hstatus, hsame⟩ := h
  obtain hr | ⟨f, a, w, hf⟩ := running_or_faulted s
  · exact .inr ⟨hstatus.symm.trans hr, _, hsame hr⟩
  · exact .inl ⟨f, a, w, hf, hstatus.symm.trans hf⟩

theorem withRegsAfter_setFreeIndex (i : Instr) (t : State) (n : Nat) :
    withRegsAfter i (t.setFreeIndex n) = (withRegsAfter i t).setFreeIndex n := by
  cases i with
  | ldVxK x =>
    rw [withRegsAfter, withRegsAfter, show (t.setFreeIndex n).key = t.key from rfl]
    cases lowestPressed t.key <;> rfl
  | _ => rfl

/-- An effect neither reads nor writes the counter. -/
theorem effect_setFreeIndex (i : Instr) (t : State) (n : Nat) : effect i (t.setFreeIndex n) = (effect i t).setFreeIndex n := by
  rw [effect, withRegsAfter_setFreeIndex]
  rfl

theorem answer_sameToTheHost (i : Instr) (t : State) (n : Nat) : SameToTheHost (answer i (t.setFreeIndex n)) (answer i t) := by
  cases hf : ownFault i t with
  | none =>
    rw [answer_of_no_fault hf, answer_of_no_fault (s := t.setFreeIndex n) hf, effect_setFreeIndex]
    exact sameToTheHost_setFreeIndex _ n
  | some f =>
    rw [answer_of_fault hf, answer_of_fault (s := t.setFreeIndex n) hf]
    exact sameToTheHost_takeFault f _ _ _ _

/-- The fetch and the decode read `pc` and memory only. -/
theorem fetchDecode_setFreeIndex (t : State) (n : Nat) :
    (∃ i, fetchDecode (t.setFreeIndex n) = .ok (i, (t.setPc (t.pc + 2)).setFreeIndex n) ∧ fetchDecode t = .ok (i, t.setPc (t.pc + 2))) ∨
    ∃ f a w, fetchDecode (t.setFreeIndex n) = .error (takeFault f a w (t.setFreeIndex n)) ∧
      fetchDecode t = .error (takeFault f a w t) := by
  by_cases h : t.pc.toNat ≤ 0xFFE
  · cases hd : decodeWord (wordAtPc t) with
    | ok i => exact .inl ⟨i, fetchDecode_of_decode (s := t.setFreeIndex n) h hd, fetchDecode_of_decode h hd⟩
    | error r => exact .inr ⟨_, _, _, fetchDecode_of_reject (s := t.setFreeIndex n) h hd, fetchDecode_of_reject h hd⟩
  · have h : 0xFFE < t.pc.toNat := by omega
    exact .inr ⟨_, _, _, fetchDecode_of_gt (s := t.setFreeIndex n) h, fetchDecode_of_gt h⟩

theorem step_sameToTheHost {t : State} (h : Running t) (n : Nat) :
    ∃ s' t', step (t.setFreeIndex n) = .next s' ∧ step t = .next t' ∧ SameToTheHost s' t' := by
  have hn : Running (t.setFreeIndex n) := h
  rw [step, step, h, hn]
  obtain ⟨i, hs, ht⟩ | ⟨f, a, w, hs, ht⟩ := fetchDecode_setFreeIndex t n
  · rw [hs, ht]
    exact ⟨_, _, exec_eq _ _, exec_eq _ _, answer_sameToTheHost i _ n⟩
  · rw [hs, ht]
    exact ⟨_, _, rfl, rfl, sameToTheHost_takeFault f a w _ t⟩

theorem loadImage_sameToTheHost (bytes : List Byte) (t : State) (n : Nat) :
    SameToTheHost (loadImage bytes (t.setFreeIndex n)) (loadImage bytes t) := by
  unfold loadImage
  split
  · exact sameToTheHost_setFreeIndex (t.setMem _) n
  · exact sameToTheHost_takeFault _ _ _ _ _

theorem pressKey_sameToTheHost (index : Nat) (pressed : Bool) (t : State) (n : Nat) :
    SameToTheHost (pressKey index pressed (t.setFreeIndex n)) (pressKey index pressed t) := by
  unfold pressKey
  split
  · exact sameToTheHost_setFreeIndex (t.setKey _) n
  · exact sameToTheHost_takeFault _ _ _ _ _

theorem whenRunning_sameToTheHost {s s' t t' : State} (h : SameToTheHost s t) (h' : SameToTheHost s' t') :
    SameToTheHost (whenRunning s s') (whenRunning t t') := by
  unfold whenRunning
  rw [h.1]
  cases t.status
  · exact h'
  · exact h

/-- Every command makes of two states that are the same to the host two that are. -/
theorem command_sameToTheHost {s t : State} (h : SameToTheHost s t) (c : Command) :
    ∃ s' t', command c s = .next s' ∧ command c t = .next t' ∧ SameToTheHost s' t' := by
  by_cases hc : c = .reset
  · subst hc
    exact ⟨_, _, rfl, rfl, sameToTheHost_resetFrom s t⟩
  obtain ⟨f, a, w, hs, ht⟩ | ⟨hr, n, rfl⟩ := sameToTheHost_cases h
  · exact ⟨_, _, command_of_faulted hs hc, command_of_faulted ht hc, h⟩
  · cases c with
    | reset => exact absurd rfl hc
    | load bytes => exact ⟨_, _, rfl, rfl, whenRunning_sameToTheHost h (loadImage_sameToTheHost bytes t n)⟩
    | pressKey index pressed => exact ⟨_, _, rfl, rfl, whenRunning_sameToTheHost h (pressKey_sameToTheHost index pressed t n)⟩
    | step => exact step_sameToTheHost hr n
    | tick => exact ⟨_, _, rfl, rfl, whenRunning_sameToTheHost h (sameToTheHost_setFreeIndex (countTimers t) n)⟩
    | getDisplay => exact ⟨_, _, rfl, rfl, h⟩

theorem commands_cons_of_next {c : Command} {cs : List Command} {s t : State} (h : command c s = .next t) :
    commands (c :: cs) s = commands cs t := by
  rw [commands, h]

/-- So does every sequence of commands. -/
theorem commands_sameToTheHost (cs : List Command) {s t : State} (h : SameToTheHost s t) :
    ∃ s' t', commands cs s = .next s' ∧ commands cs t = .next t' ∧ SameToTheHost s' t' := by
  induction cs generalizing s t with
  | nil => exact ⟨s, t, rfl, rfl, h⟩
  | cons c cs ih =>
    obtain ⟨s₁, t₁, hs, ht, h₁⟩ := command_sameToTheHost h c
    rw [commands_cons_of_next hs, commands_cons_of_next ht]
    exact ih h₁

/-- Settles O58: RESET leaves what construction leaves, but for the counter. -/
theorem runsAfterResetReproduce : Obligations.RunsAfterResetReproduce := by
  intro cs s t h
  obtain ⟨t', u, ht, hu, hsame⟩ := commands_sameToTheHost cs (sameToTheHost_resetFrom s State.reset)
  rw [h] at ht
  injection ht with ht
  exact ⟨u, hu, ht ▸ hsame⟩

end Sys2Proof.Machine
end

section
/-!
Pushes and pops undo each other (10_state.md R121, R122), and the values after reset (R140).
-/
namespace Sys2Proof.Machine

/-- A pop behind `n` pops is the last of `n + 1`. -/
theorem popAll_succ {n : Nat} {t u w : State} {as : List Word} {a : Word} (h : popAll n t = some (as, u)) (hpop : u.pop = some (a, w)) :
    popAll (n + 1) t = some (as ++ [a], w) := by
  induction n generalizing t as with
  | zero =>
    obtain ⟨rfl, rfl⟩ : [] = as ∧ t = u := by simpa [popAll] using h
    simp [popAll, hpop]
  | succ n ih =>
    rw [popAll, Option.bind_eq_some_iff] at h
    obtain ⟨⟨b, v⟩, hb, h⟩ := h
    obtain ⟨⟨bs, x⟩, hbs, h⟩ := Option.map_eq_some_iff.1 h
    obtain ⟨rfl, rfl⟩ : b :: bs = as ∧ x = u := by simpa using h
    rw [popAll, hb, Option.bind_some, ih hbs]
    rfl

/-- Settles O16, by induction on the values: the pops of the later values end where the first one was pushed, with its slot kept. -/
theorem stackIsLastInFirstOut : Obligations.StackIsLastInFirstOut := by
  intro as
  induction as with
  | nil => exact fun s _ => ⟨s, s, rfl, rfl, rfl, rfl, fun _ _ => rfl⟩
  | cons a as ih =>
    intro s hfit
    rw [List.length_cons] at hfit
    obtain ⟨s₁, hpush, hsp₁, hstack₁, hs₁⟩ := s.push_of_lt a (by omega)
    obtain ⟨t, u, ht, hspt, hpops, hu, hkeep⟩ := ih s₁ (by omega)
    have hspu : u.sp = s₁.sp := by rw [hu]
    obtain ⟨w, hpop, hspw, hw⟩ := u.pop_of_pos (by omega)
    have hspw : w.sp = s.sp := Fin.ext (by omega)
    have htop : u.stack[u.sp.val - 1] = a := by
      have hkept : u.stack[s.sp.val] = s₁.stack[s.sp.val] := hkeep ⟨s.sp.val, by omega⟩ (by rw [hsp₁]; exact Nat.lt_succ_self _)
      simp only [hspu, hsp₁, Nat.add_sub_cancel, hkept, hstack₁, Vector.getElem_set_self]
    refine ⟨t, w, by rw [pushAll, hpush]; exact ht, by rw [hspt, hsp₁, List.length_cons]; omega, ?_, ?_, fun k hk => ?_⟩
    · rw [htop] at hpop
      rw [List.reverse_cons]
      exact popAll_succ hpops hpop
    · rw [hw, hspw, hu, hs₁]
    · rw [hw, hkeep k (by omega), hstack₁, Vector.get_eq_getElem, Vector.getElem_set_ne _ _ (by omega)]
      rfl

/-- Settles O48: construction is RESET of the constructed state, and the value of each element after a RESET is read off. -/
theorem resetSetsEveryElement : Obligations.ResetSetsEveryElement := by
  intro s t h
  obtain ⟨u, rfl⟩ : ∃ u : State, t = u.resetFrom := by
    obtain rfl | h := h
    · exact ⟨State.reset, rfl⟩
    · injection h with h
      exact ⟨s, h.symm⟩
  refine ⟨fun a ha => dif_pos ha, fun a ha => dif_neg (Nat.not_lt.2 ha), ?_, rfl, rfl, ?_, rfl, pixel_blankDisplay, ?_, rfl, rfl, rfl, rfl⟩
  all_goals exact fun k => Vector.getElem_replicate _

end Sys2Proof.Machine
end

section
/-!
The fetch (20_memory.md R210), and the fetch of a word that FX55 has just stored (R230, R232): memory is one and there is no buffer between.
-/
namespace Sys2Proof.Machine

/-- Settles O6, by the two cases of the fetch: `pc` at most 0xFFE does not wrap when it moves by 2. -/
theorem fetchReadsBigEndianPair : Obligations.FetchReadsBigEndianPair := by
  refine fun s => ⟨fun hpc => ?inMemory, fun hrun hpc => ?pastTheEnd⟩
  case inMemory =>
    have hmove : (s.pc + 2).toNat = s.pc.toNat + 2 := BitVec.toNat_add_of_lt (by change s.pc.toNat + 2 < 65536; omega)
    exact ⟨_, _, fetch_of_le s (by omega), toNat_wordOfBytes _ _, hmove, rfl, fun _ => rfl⟩
  case pastTheEnd =>
    have hfetch := fetchDecode_of_gt (s := s) (by omega)
    exact ⟨_, by rw [step, hrun, hfetch], rfl⟩

/-- FX55 has its effect when its last byte is in memory (43_index_memory.md R475). -/
theorem exec_ldMemVx_of_le {x : Reg} {s : State} (h : s.i.toNat + x.val ≤ 4095) : exec (.ldMemVx x) s = .next (effect (.ldMemVx x) s) := by
  have hfault : ownFault (.ldMemVx x) s = none := if_neg (Nat.not_lt.2 h)
  rw [exec_eq, answer_of_no_fault hfault]

/-- What FX55 leaves at `I + k` is Vk. -/
theorem readByte_effect_ldMemVx {x k : Reg} {s : State} (hmem : s.mem.wf) (h : s.i.toNat + x.val ≤ 4095) (hk : k ≤ x) :
    readByte (effect (.ldMemVx x) s).mem (dataAddress s k.val) = s.reg k := by
  have hfit : dataAddress s 0 + (regsUpTo s x).length ≤ Config.memSize := by
    rw [regsUpTo_length]
    exact Nat.succ_le_succ h
  change readByte (writeBytes s.mem (dataAddress s 0) (regsUpTo s x)) (dataAddress s 0 + k.val) = s.reg k
  rw [readByte_writeBytes hmem _ _ hfit, if_pos (Nat.le_add_right ..), Nat.add_sub_cancel_left, getElem?_regsUpTo s x k hk,
    Option.getD_some]

/-- Settles O33: the two bytes at `pc` are the two registers stored there, and FX55 keeps `pc`. -/
theorem storeIsSeenByNextFetch : Obligations.StoreIsSeenByNextFetch := by
  intro x j k s hmem hrun hjk hkx hpc
  have hkx : k.val ≤ x.val := hkx
  have hjx : j.val ≤ x.val := by omega
  have hnext : s.pc.toNat + 1 = dataAddress s k.val := by rw [hpc, ← hjk]; rfl
  have hle : s.pc.toNat ≤ 0xFFE := by
    have : s.pc.toNat + 1 = s.i.toNat + k.val := hnext
    omega
  refine ⟨_, _, _, exec_ldMemVx_of_le hrun, fetch_of_le _ hle, ?_⟩
  change wordOfBytes (readByte _ s.pc.toNat) (readByte _ (s.pc.toNat + 1)) = _
  rw [hnext, hpc, readByte_effect_ldMemVx hmem hrun hjx, readByte_effect_ldMemVx hmem hrun hkx]

end Sys2Proof.Machine
end

section
/-!
Encode and decode are inverse to each other (30_encoding.md R303, R334): a word is its fields side by side, so a word is known by its fields, and
the fields of a built word are those it was built from.
-/
namespace Sys2Proof

/-! A word and its fields. -/

theorem top_append_fieldNNN (w : Word) : nibbleAt w 12 ++ fieldNNN w = w :=
  (BitVec.extractLsb'_append_extractLsb'_eq_extractLsb' rfl).trans BitVec.extractLsb'_eq_self

theorem nibble8_append_fieldNN (w : Word) : nibbleAt w 8 ++ fieldNN w = fieldNNN w :=
  BitVec.extractLsb'_append_extractLsb'_eq_extractLsb' rfl

theorem nibble4_append_fieldN (w : Word) : nibbleAt w 4 ++ fieldN w = fieldNN w :=
  BitVec.extractLsb'_append_extractLsb'_eq_extractLsb' rfl

/-- The bytes of a word, high byte first, make the word (20_memory.md R210). -/
theorem wordOfBytes_highByte_lowByte (w : Word) : wordOfBytes (highByte w) (lowByte w) = w :=
  (BitVec.extractLsb'_append_extractLsb'_eq_extractLsb' rfl).trans BitVec.extractLsb'_eq_self

theorem word_eq_of_top_of_fieldNNN {w u : Word} (htop : nibbleAt w 12 = nibbleAt u 12) (hnnn : fieldNNN w = fieldNNN u) : w = u := by
  rw [← top_append_fieldNNN w, htop, hnnn, top_append_fieldNNN]

theorem fieldNNN_eq_of_fieldX_of_fieldNN {w u : Word} (hx : fieldX w = fieldX u) (hnn : fieldNN w = fieldNN u) :
    fieldNNN w = fieldNNN u := by
  rw [← nibble8_append_fieldNN, BitVec.toFin_inj.1 hx, hnn, nibble8_append_fieldNN]

theorem fieldNN_eq_of_fieldY_of_fieldN {w u : Word} (hy : fieldY w = fieldY u) (hn : fieldN w = fieldN u) : fieldNN w = fieldNN u := by
  rw [← nibble4_append_fieldN, BitVec.toFin_inj.1 hy, hn, nibble4_append_fieldN]

/-! A word is the match of its row with its own operands put in, when its fixed fields are those of the match (30_encoding.md R334). -/

theorem formatA_fields {base w : Word} (htop : nibbleAt w 12 = nibbleAt base 12) (h : fieldNNN base = 0 := by decide) :
    formatA base (fieldNNN w) = w :=
  word_eq_of_top_of_fieldNNN ((top_formatA ..).trans htop.symm) (fieldNNN_formatA _ _ h)

theorem formatI_fields {base w : Word} (htop : nibbleAt w 12 = nibbleAt base 12) (hx : nibbleAt base 8 = 0 := by decide)
    (hnn : fieldNN base = 0 := by decide) : formatI base (fieldX w) (fieldNN w) = w :=
  word_eq_of_top_of_fieldNNN ((top_formatI ..).trans htop.symm)
    (fieldNNN_eq_of_fieldX_of_fieldNN (fieldX_formatI _ _ _ hx) (fieldNN_formatI _ _ _ hnn))

theorem formatU_fields {base w : Word} (htop : nibbleAt w 12 = nibbleAt base 12) (hnn : fieldNN w = fieldNN base)
    (hx : nibbleAt base 8 = 0 := by decide) : formatU base (fieldX w) = w :=
  word_eq_of_top_of_fieldNNN ((top_formatU ..).trans htop.symm)
    (fieldNNN_eq_of_fieldX_of_fieldNN (fieldX_formatU _ _ hx) ((fieldNN_formatU ..).trans hnn.symm))

theorem formatR_fields {base w : Word} (htop : nibbleAt w 12 = nibbleAt base 12) (hn : fieldN w = fieldN base)
    (hx : nibbleAt base 8 = 0 := by decide) (hy : nibbleAt base 4 = 0 := by decide) : formatR base (fieldX w) (fieldY w) = w :=
  word_eq_of_top_of_fieldNNN ((top_formatR ..).trans htop.symm)
    (fieldNNN_eq_of_fieldX_of_fieldNN (fieldX_formatR _ _ _ hx)
      (fieldNN_eq_of_fieldY_of_fieldN (fieldY_formatR _ _ _ hy) ((fieldN_formatR ..).trans hn.symm)))

theorem formatD_fields {base w : Word} (htop : nibbleAt w 12 = nibbleAt base 12) (hx : nibbleAt base 8 = 0 := by decide)
    (hy : nibbleAt base 4 = 0 := by decide) (hn : fieldN base = 0 := by decide) : formatD base (fieldX w) (fieldY w) (fieldN w) = w :=
  word_eq_of_top_of_fieldNNN ((top_formatD ..).trans htop.symm)
    (fieldNNN_eq_of_fieldX_of_fieldNN (fieldX_formatD _ _ _ _ hx)
      (fieldNN_eq_of_fieldY_of_fieldN (fieldY_formatD _ _ _ _ hy) (fieldN_formatD _ _ _ _ hn)))

/-! Decode after encode. -/

/-- By format: the match's fixed fields choose the group (d1), then the row in it, and the operands are read back from where they were put. -/
theorem decodeWord_encode (i : Instr) : decodeWord (encode i) = .ok i := by
  cases i with
  | nop | cls | ret => rfl
  | jp nnn | call nnn | ldI nnn | jpV0 nnn =>
    rw [encode, decodeWord, top_formatA]
    change Except.ok _ = _
    rw [fieldNNN_formatA _ _ rfl]
  | seImm x nn | sneImm x nn | ldImm x nn | addImm x nn | rnd x nn =>
    rw [encode, decodeWord, top_formatI]
    change Except.ok _ = _
    rw [fieldX_formatI _ _ _ rfl, fieldNN_formatI _ _ _ rfl]
  | seReg x y | sneReg x y =>
    rw [encode, decodeWord, top_formatR, fieldN_formatR]
    change Except.ok _ = _
    rw [fieldX_formatR _ _ _ rfl, fieldY_formatR _ _ _ rfl]
  | ldReg x y | orReg x y | andReg x y | xorReg x y | addReg x y | subReg x y | shr x y | subnReg x y | shl x y =>
    rw [encode, decodeWord, top_formatR]
    change decode8 _ = _
    rw [decode8, fieldN_formatR]
    change Except.ok _ = _
    rw [fieldX_formatR _ _ _ rfl, fieldY_formatR _ _ _ rfl]
  | drw x y n =>
    rw [encode, decodeWord, top_formatD]
    change Except.ok _ = _
    rw [fieldX_formatD _ _ _ _ rfl, fieldY_formatD _ _ _ _ rfl, fieldN_formatD _ _ _ _ rfl]
  | skp x | sknp x =>
    rw [encode, decodeWord, top_formatU]
    change decodeE _ = _
    rw [decodeE, fieldNN_formatU]
    change Except.ok _ = _
    rw [fieldX_formatU _ _ rfl]
  | ldVxDt x | ldVxK x | ldDtVx x | ldStVx x | addIVx x | ldFVx x | ldBVx x | ldMemVx x | ldVxMem x =>
    rw [encode, decodeWord, top_formatU]
    change decodeF _ = _
    rw [decodeF, fieldNN_formatU]
    change Except.ok _ = _
    rw [fieldX_formatU _ _ rfl]

/-- Settles O2: the two bytes of a word make the word, and that decodes to its instruction. -/
theorem decodeOfEncodeIsIdentity : Obligations.DecodeOfEncodeIsIdentity := by
  refine fun i => ⟨decodeWord_encode i, fun rest => ?_⟩
  change (decodeWord (wordOfBytes (highByte (encode i)) (lowByte (encode i)))).map _ = _
  rw [wordOfBytes_highByte_lowByte, decodeWord_encode]
  rfl

/-- Settles O1: the words written out are the encodings of their instructions, and 0xF002 falls through group F. -/
theorem wordsOfTheMapDecode : Obligations.WordsOfTheMapDecode :=
  ⟨decodeWord_encode .nop, decodeWord_encode .cls, decodeWord_encode .ret, decodeWord_encode (.call 0x210),
    decodeWord_encode (.seImm 15 0x01), decodeWord_encode (.sneReg 3 4), decodeWord_encode (.subnReg 1 2),
    decodeWord_encode (.ldI 0x300), decodeWord_encode (.rnd 1 0x0F), decodeWord_encode (.drw 13 13 13),
    decodeWord_encode (.sknp 5), decodeWord_encode (.ldVxMem 15), decodeWord_encode (.ldStVx 1), rfl⟩

/-! Encode after decode, along the branches of the decoder (30_encoding.md R313). -/

theorem encode_of_decode0 {w : Word} {i : Instr} : decode0 w = .ok i → encode i = w := by
  fun_cases decode0 w <;> rintro ⟨⟩
  all_goals exact Eq.symm ‹_›

theorem encode_of_decode8 {w : Word} {i : Instr} (htop : nibbleAt w 12 = 8) : decode8 w = .ok i → encode i = w := by
  fun_cases decode8 w <;> rintro ⟨⟩
  all_goals exact formatR_fields htop (BitVec.eq_of_toNat_eq ‹_›)

theorem encode_of_decodeE {w : Word} {i : Instr} (htop : nibbleAt w 12 = 0xE) : decodeE w = .ok i → encode i = w := by
  fun_cases decodeE w <;> rintro ⟨⟩
  all_goals exact formatU_fields htop ‹_›

theorem encode_of_decodeF {w : Word} {i : Instr} (htop : nibbleAt w 12 = 0xF) : decodeF w = .ok i → encode i = w := by
  fun_cases decodeF w <;> rintro ⟨⟩
  all_goals exact formatU_fields htop ‹_›

/-- The branches of the decoder: first those that hand the word to a group, then, by format, those that name the row themselves. -/
theorem encode_of_decodeWord {w : Word} {i : Instr} : decodeWord w = .ok i → encode i = w := by
  fun_cases decodeWord w
  case case1 => exact encode_of_decode0
  case case10 htop => exact encode_of_decode8 (BitVec.eq_of_toNat_eq htop)
  case case17 htop => exact encode_of_decodeE (BitVec.eq_of_toNat_eq htop)
  case case18 =>
    have htop : (nibbleAt w 12).toNat = 0xF := by
      simp only [imp_false] at *
      omega
    exact encode_of_decodeF (BitVec.eq_of_toNat_eq htop)
  all_goals rintro ⟨⟩
  case case2 htop | case3 htop | case13 htop | case14 htop => exact formatA_fields (BitVec.eq_of_toNat_eq htop)
  case case4 htop | case5 htop | case8 htop | case9 htop | case15 htop => exact formatI_fields (BitVec.eq_of_toNat_eq htop)
  case case6 htop hn | case11 htop hn => exact formatR_fields (BitVec.eq_of_toNat_eq htop) hn
  case case16 htop => exact formatD_fields (BitVec.eq_of_toNat_eq htop)

/-- Settles O3, along the branches of the decoder: a branch names the fixed fields of its row, and the operands are read from the rest. -/
theorem encodeOfDecodeIsIdentity : Obligations.EncodeOfDecodeIsIdentity := fun _ _ => encode_of_decodeWord

end Sys2Proof
end

section
/-!
The rows of the opcode map (30_encoding.md R310 to R315): they are disjoint, and the decoder accepts exactly the words that select one, because in
each group it looks only at bits that the masks of the rows of that group fix.
-/
namespace Sys2Proof

theorem Row.and_mask_of_selects {r : Row} {w : Word} (h : r.selects w = true) : w &&& r.mask = r.value := beq_iff_eq.1 h

/-! Disjointness. -/

/-- A bit that both masks fix would have to be that of both matches. -/
theorem Row.not_selects_of_apart {r q : Row} {w : Word} (h : r.apart q = true) (hr : r.selects w = true) : q.selects w ≠ true := by
  intro hq
  rw [Row.apart, ← Row.and_mask_of_selects hr, ← Row.and_mask_of_selects hq, bne_iff_ne] at h
  refine h (BitVec.eq_of_getLsbD_eq fun j _ => ?_)
  simp only [BitVec.getLsbD_and, BitVec.getLsbD_xor]
  grind

/-- No word selects two rows of a well-formed map. -/
theorem eq_of_selects_of_opcodeMapWf {w : Word} {r q : Row} (hr : r.selects w = true) (hq : q.selects w = true) {rows : List Row}
    (hwf : opcodeMapWf rows = true) (hrm : r ∈ rows) (hqm : q ∈ rows) : r = q := by
  induction rows with
  | nil => exact nomatch hrm
  | cons p ps ih =>
    obtain ⟨⟨-, hp⟩, hps⟩ : (p.wf = true ∧ ps.all p.apart = true) ∧ opcodeMapWf ps = true := by
      simpa only [opcodeMapWf, Bool.and_eq_true] using hwf
    have happart {t : Row} (ht : t ∈ ps) (hpw : p.selects w = true) : t.selects w ≠ true :=
      Row.not_selects_of_apart (List.all_eq_true.1 hp t ht) hpw
    obtain rfl | hrm' := List.mem_cons.1 hrm <;> obtain rfl | hqm' := List.mem_cons.1 hqm
    · rfl
    · exact absurd hq (happart hqm' hr)
    · exact absurd hr (happart hrm' hq)
    · exact ih hps hrm' hqm'

/-- Settles O5: the map is well formed. -/
theorem opcodeRowsAreDisjoint : Obligations.OpcodeRowsAreDisjoint :=
  fun _ _ _ hrm hqm hr hq => eq_of_selects_of_opcodeMapWf hr hq (by decide) hrm hqm

/-! Whether the decoder accepts a word depends on d1 and, by group, on the whole word, on d4 or on d3d4. -/

theorem isOk_decode8_congr {w u : Word} (hn : fieldN w = fieldN u) : (decode8 w).isOk = (decode8 u).isOk := by
  rw [decode8, decode8, hn]
  split <;> rfl

theorem isOk_decodeE_congr {w u : Word} (hnn : fieldNN w = fieldNN u) : (decodeE w).isOk = (decodeE u).isOk := by
  simp only [decodeE, hnn, apply_ite Except.isOk]
  rfl

theorem isOk_decodeF_congr {w u : Word} (hnn : fieldNN w = fieldNN u) : (decodeF w).isOk = (decodeF u).isOk := by
  simp only [decodeF, hnn, apply_ite Except.isOk]
  rfl

theorem isOk_decodeWord_congr {w u : Word} (htop : nibbleAt w 12 = nibbleAt u 12) (h0 : (nibbleAt u 12).toNat = 0 → w = u)
    (hn : (nibbleAt u 12).toNat ∈ [5, 8, 9] → fieldN w = fieldN u) (hnn : 14 ≤ (nibbleAt u 12).toNat → fieldNN w = fieldNN u) :
    (decodeWord w).isOk = (decodeWord u).isOk := by
  rw [decodeWord, decodeWord, htop]
  split
  case h_1 hd => rw [h0 hd]
  case h_6 hd | h_10 hd =>
    rw [hn (by simp [hd])]
    split <;> rfl
  case h_9 hd => exact isOk_decode8_congr (hn (by simp [hd]))
  case h_15 hd => exact isOk_decodeE_congr (hnn hd.ge)
  case h_16 =>
    have hd : 14 ≤ (nibbleAt u 12).toNat := by
      simp only [imp_false] at *
      omega
    exact isOk_decodeF_congr (hnn hd)
  all_goals rfl

/-! The masks fix what the decoder looks at. -/

/-- Where the mask of a selected row is all ones, the word has the bits of the match. -/
theorem Row.extract_of_selects {r : Row} {w : Word} (h : r.selects w = true) {k n : Nat} (hmask : r.mask.extractLsb' k n = BitVec.allOnes n) :
    w.extractLsb' k n = r.value.extractLsb' k n := by
  rw [← Row.and_mask_of_selects h, BitVec.extractLsb'_and, hmask, BitVec.and_allOnes]

theorem opcodeMap_mask_top : ∀ r ∈ opcodeMap, nibbleAt r.mask 12 = BitVec.allOnes 4 := by decide

theorem opcodeMap_mask_of_group0 : ∀ r ∈ opcodeMap, (nibbleAt r.value 12).toNat = 0 → r.mask = BitVec.allOnes 16 := by decide

theorem opcodeMap_mask_fieldN :
    ∀ r ∈ opcodeMap, (nibbleAt r.value 12).toNat ∈ [5, 8, 9] → fieldN r.mask = BitVec.allOnes 4 := by decide

theorem opcodeMap_mask_fieldNN : ∀ r ∈ opcodeMap, 14 ≤ (nibbleAt r.value 12).toNat → fieldNN r.mask = BitVec.allOnes 8 := by decide

/-- The match of a row is itself an instruction, the one whose operands are all 0. -/
theorem opcodeMap_value_decodes : ∀ r ∈ opcodeMap, (decodeWord r.value).isOk = true := by decide

/-- A word that selects a row is accepted as the match of the row is. -/
theorem isOk_decodeWord_of_selects {r : Row} {w : Word} (hrm : r ∈ opcodeMap) (h : r.selects w = true) : (decodeWord w).isOk = true := by
  rw [isOk_decodeWord_congr (u := r.value), opcodeMap_value_decodes r hrm]
  case htop => exact Row.extract_of_selects h (opcodeMap_mask_top r hrm)
  case hn => exact fun hd => Row.extract_of_selects h (opcodeMap_mask_fieldN r hrm hd)
  case hnn => exact fun hd => Row.extract_of_selects h (opcodeMap_mask_fieldNN r hrm hd)
  case h0 =>
    intro hd
    rw [← Row.and_mask_of_selects h, opcodeMap_mask_of_group0 r hrm hd, BitVec.and_allOnes]

theorem exists_eq_ok_of_isOk {ε α : Type} {x : Except ε α} (h : x.isOk = true) : ∃ a, x = .ok a := by
  cases x with
  | ok a => exact ⟨a, rfl⟩
  | error e => exact nomatch h

/-- The word of every instruction selects a row of the map (30_encoding.md R334). -/
theorem Laws.InMap.all : ∀ i, Statement i
  | .nop => nop
  | .cls => cls
  | .ret => ret
  | .jp nnn => jp nnn
  | .call nnn => call nnn
  | .seImm x nn => seImm x nn
  | .sneImm x nn => sneImm x nn
  | .seReg x y => seReg x y
  | .ldImm x nn => ldImm x nn
  | .addImm x nn => addImm x nn
  | .ldReg x y => ldReg x y
  | .orReg x y => orReg x y
  | .andReg x y => andReg x y
  | .xorReg x y => xorReg x y
  | .addReg x y => addReg x y
  | .subReg x y => subReg x y
  | .shr x y => shr x y
  | .subnReg x y => subnReg x y
  | .shl x y => shl x y
  | .sneReg x y => sneReg x y
  | .ldI nnn => ldI nnn
  | .jpV0 nnn => jpV0 nnn
  | .rnd x nn => rnd x nn
  | .drw x y n => drw x y n
  | .skp x => skp x
  | .sknp x => sknp x
  | .ldVxDt x => ldVxDt x
  | .ldVxK x => ldVxK x
  | .ldDtVx x => ldDtVx x
  | .ldStVx x => ldStVx x
  | .addIVx x => addIVx x
  | .ldFVx x => ldFVx x
  | .ldBVx x => ldBVx x
  | .ldMemVx x => ldMemVx x
  | .ldVxMem x => ldVxMem x

/-- Settles O4: an accepted word is the word of an instruction, and that selects a row; a word that selects a row is accepted as its match is. -/
theorem decodeAcceptsExactlyTheMap : Obligations.DecodeAcceptsExactlyTheMap := by
  refine fun w => ⟨fun ⟨i, hi⟩ => ?_, fun ⟨r, hrm, hr⟩ => exists_eq_ok_of_isOk (isOk_decodeWord_of_selects hrm hr)⟩
  rw [← encode_of_decodeWord hi]
  exact List.any_eq_true.1 (Laws.InMap.all i)

end Sys2Proof
end

section
/-!
Control transfer (40_control.md): each statement is read off the effect of the instruction, or off its fault record.
-/
namespace Sys2Proof.Machine

theorem exec_of_no_fault {i : Instr} {s : State} (h : ownFault i s = none) : exec i s = .next (effect i s) := by
  rw [exec_eq, answer_of_no_fault h]

theorem exec_of_fault {i : Instr} {s : State} {f : Fault} (h : ownFault i s = some f) :
    exec i s = .next (takeFault f (recordedAddr f s) (encode i) s) := by
  rw [exec_eq, answer_of_fault h]

theorem step_of_decode {s : State} {i : Instr} (hrun : Running s) (hpc : s.pc.toNat ≤ 0xFFE) (hd : decodeWord (wordAtPc s) = .ok i) :
    step s = exec i (s.setPc (s.pc + 2)) := by
  rw [step, hrun, fetchDecode_of_decode hpc hd]

/-- `pc` does not wrap when the fetch moves it (10_state.md R114). -/
theorem toNat_pc_add_two {s : State} (hpc : s.pc.toNat ≤ 0xFFE) : (s.pc + 2).toNat = s.pc.toNat + 2 :=
  BitVec.toNat_add_of_lt (by change s.pc.toNat + 2 < 65536; omega)

theorem onlyPc_setPc (s : State) (a : Word) : OnlyPc s (s.setPc a) := ⟨rfl, fun _ => rfl⟩

/-- CALL stores `pc` in the slot at `sp` and keeps the others; with all 16 entries in use there is no such slot. -/
theorem get_stackAfter_call (nnn : Addr12) (s : State) (k : Fin 16) :
    (stackAfter (.call nnn) s).get k = if k.val = s.sp.val then s.pc else s.stack.get k := by
  rw [stackAfter]
  split
  · simp only [Vector.get_eq_getElem, Vector.getElem_set, eq_comm]
  · rw [if_neg (by omega)]

/-- V0 + NNN is at most 0x10FE, so it does not wrap (40_control.md R404). -/
theorem toNat_zext16_add_addrOperand (b : Byte) (nnn : Addr12) : (zext16 b + addrOperand nnn).toNat = b.toNat + nnn.toNat := by
  have hb := b.isLt
  have hn := nnn.isLt
  rw [BitVec.toNat_add_of_lt (by rw [toNat_zext16, toNat_addrOperand]; omega), toNat_zext16, toNat_addrOperand]

/-- The word 2NNN as a number: the operand lies below the bits of the match. -/
theorem encode_call (nnn : Addr12) : encode (.call nnn) = BitVec.ofNat 16 (0x2000 + nnn.toNat) := by
  have hn := nnn.isLt
  apply BitVec.eq_of_toNat_eq
  calc (encode (.call nnn)).toNat
      = 2 ^ 12 * 2 ||| (addrOperand nnn).toNat := BitVec.toNat_or ..
    _ = 2 ^ 12 * 2 + nnn.toNat := by rw [toNat_addrOperand, Nat.two_pow_add_eq_or_of_lt hn]
    _ = (BitVec.ofNat 16 (0x2000 + nnn.toNat)).toNat := by rw [BitVec.toNat_ofNat]; omega

/-- Settles O18: the core still runs, so the instruction had its effect, and that of a jump or a skip writes `pc` alone. -/
theorem jumpsAndSkipsChangeOnlyPc : Obligations.JumpsAndSkipsChangeOnlyPc := by
  intro i s t he hr
  obtain rfl := eq_effect_of_running he hr
  refine ⟨?jumpOrSkip, ?ret, ?call⟩
  case jumpOrSkip =>
    rintro (⟨nnn, rfl | rfl⟩ | ⟨x, nn, rfl | rfl⟩ | ⟨x, y, rfl | rfl⟩ | ⟨x, rfl | rfl⟩)
    all_goals exact onlyPc_setPc s _
  case ret =>
    rintro rfl
    exact ⟨rfl, fun _ => rfl⟩
  case call =>
    rintro ⟨nnn, rfl⟩
    exact ⟨rfl, fun _ => rfl, fun k hk => (get_stackAfter_call nnn s k).trans (if_neg hk)⟩

/-- Settles O12: the word 0x0000 decodes to NOP, so the step ends where the fetch does. -/
theorem nopOnlyAdvances : Obligations.NopOnlyAdvances := by
  refine fun s => ⟨rfl, fun hrun hpc hword => ?_⟩
  have hd : decodeWord (wordAtPc s) = .ok .nop := by rw [hword]; exact decodeWord_encode .nop
  exact ⟨_, step_of_decode hrun hpc hd, toNat_pc_add_two hpc, onlyPc_setPc s _⟩

/-- Settles O13: no jump faults. -/
theorem jumpsSetPc : Obligations.JumpsSetPc := fun nnn s =>
  ⟨⟨_, rfl, toNat_addrOperand nnn, onlyPc_setPc s _⟩, ⟨_, rfl, toNat_zext16_add_addrOperand (s.reg 0) nnn, onlyPc_setPc s _⟩⟩

/-- Settles O14, by the condition of the fault: a free slot `k` at `sp`, or none. -/
theorem callPushesReturnAddress : Obligations.CallPushesReturnAddress := by
  refine fun nnn s => ⟨fun k hk => ?push, fun hfull => ?full⟩
  case push =>
    have hlt : s.sp.val < 16 := by omega
    have hfault : ownFault (.call nnn) s = none := if_neg fun h => absurd (congrArg Fin.val h) (Nat.ne_of_lt hlt)
    refine ⟨_, exec_of_no_fault hfault, toNat_addrOperand nnn, Fin.val_add_one_of_lt hlt, ?_, fun j hj => ?_, rfl, fun _ => rfl⟩
    · exact (get_stackAfter_call nnn s k).trans (if_pos hk)
    · exact (get_stackAfter_call nnn s j).trans (if_neg fun h => hj (Fin.ext (h.trans hk.symm)))
  case full =>
    refine ⟨_, exec_of_fault (if_pos hfull), ?_⟩
    rw [← encode_call]
    rfl

/-- Settles O15, by the condition of the fault: a newest entry `k` below `sp`, or none. -/
theorem returnPopsAddress : Obligations.ReturnPopsAddress := by
  refine fun s => ⟨fun k hk => ?pop, fun hempty => ⟨_, exec_of_fault (if_pos hempty), rfl⟩⟩
  case pop =>
    have hne : s.sp ≠ 0 := fun h => by simp [h] at hk
    have htop : s.sp.val - 1 = k.val := by omega
    refine ⟨_, exec_of_no_fault (if_neg hne), ?_, (Fin.val_sub_one_of_ne_zero hne).trans htop, rfl, fun _ => rfl⟩
    change s.stack[s.sp.val - 1] = s.stack[k.val]
    simp only [htop]

end Sys2Proof.Machine
end

section
/-!
The register-compare skips (41_skip.md): the Boolean comparison of the meaning is equality of the two bytes.
-/
namespace Sys2Proof.Machine

/-- The condition of SE (41_skip.md R420, R422). -/
theorem skipPc_beq (a b : Byte) (s : State) : skipPc (a == b) s = if a = b then s.pc + 2 else s.pc := by
  simp only [skipPc, beq_iff_eq]

/-- The condition of SNE (41_skip.md R421, R423). -/
theorem skipPc_bne (a b : Byte) (s : State) : skipPc (a != b) s = if a = b then s.pc else s.pc + 2 := by
  simp only [skipPc, bne_iff_ne, ite_not]

/-- Settles O17: a compare raises no fault, and its effect is the write of `pc` alone. -/
theorem registerSkipsCompare : Obligations.RegisterSkipsCompare := fun x y nn s =>
  ⟨⟨_, exec_of_no_fault rfl, skipPc_beq (s.reg x) nn s, onlyPc_setPc s _⟩,
    ⟨_, exec_of_no_fault rfl, skipPc_bne (s.reg x) nn s, onlyPc_setPc s _⟩,
    ⟨_, exec_of_no_fault rfl, skipPc_beq (s.reg x) (s.reg y) s, onlyPc_setPc s _⟩,
    ⟨_, exec_of_no_fault rfl, skipPc_bne (s.reg x) (s.reg y) s, onlyPc_setPc s _⟩⟩

end Sys2Proof.Machine
end

section
/-!
Arithmetic and logic (42_alu.md): no instruction of the family faults. The loads, the logic and 7XNN end with one register write; the five flag
instructions end with `setRegFlag`, whose second write is VF (10_state.md R106), so what each leaves in VF holds of every X and Y.
-/
namespace Sys2Proof.Machine

theorem onlyRegs_setReg (s : State) (x : Reg) (b : Byte) : OnlyRegs s (s.setReg x b) := ⟨s.setReg_eq_setV x b, fun _ => rfl⟩

theorem onlyRegs_setRegFlag (s : State) (x : Reg) (b : Byte) (c : Bool) : OnlyRegs s (s.setRegFlag x b c) :=
  ⟨s.setRegFlag_eq_setV x b c, fun _ => rfl⟩

/-! What the five flag instructions write. -/

theorem exec_addReg (x y : Reg) (s : State) :
    exec (.addReg x y) s = .next (s.setRegFlag x (sum8 (s.reg x) (s.reg y)) (carryOut (s.reg x) (s.reg y))) := rfl

theorem exec_subReg (x y : Reg) (s : State) :
    exec (.subReg x y) s = .next (s.setRegFlag x (diff8 (s.reg x) (s.reg y)) (noBorrow (s.reg x) (s.reg y))) := rfl

theorem exec_subnReg (x y : Reg) (s : State) :
    exec (.subnReg x y) s = .next (s.setRegFlag x (diff8 (s.reg y) (s.reg x)) (noBorrow (s.reg y) (s.reg x))) := rfl

theorem exec_shr (x y : Reg) (s : State) : exec (.shr x y) s = .next (s.setRegFlag x (s.reg x >>> 1) ((s.reg x).getLsbD 0)) := rfl

theorem exec_shl (x y : Reg) (s : State) : exec (.shl x y) s = .next (s.setRegFlag x (s.reg x <<< 1) ((s.reg x).getLsbD 7)) := rfl

/-! The results and flags as numbers. -/

theorem toNat_flagByte_carryOut (a b : Byte) : (flagByte (carryOut a b)).toNat = if a.toNat + b.toNat > 255 then 1 else 0 := by
  simp only [toNat_flagByte, carryOut, decide_eq_true_eq]

theorem toNat_flagByte_noBorrow (a b : Byte) : (flagByte (noBorrow a b)).toNat = if a.toNat < b.toNat then 0 else 1 := by
  simp only [toNat_flagByte, noBorrow, decide_eq_true_eq, ite_not]

theorem toNat_flagByte_noBorrow_eq_ite_ge (a b : Byte) : (flagByte (noBorrow a b)).toNat = if a.toNat ≥ b.toNat then 1 else 0 := by
  simp only [toNat_flagByte, noBorrow, decide_eq_true_eq, not_lt, ge_iff_le]

/-- Doubling a byte carries out its bit 7 (42_alu.md R455, 8FF4). -/
theorem toNat_flagByte_carryOut_self (a : Byte) : (flagByte (carryOut a a)).toNat = a.toNat / 128 := by
  have := a.isLt
  rw [toNat_flagByte_carryOut]
  split <;> omega

/-- A byte less itself does not borrow (42_alu.md R455, 8FF5 and 8FF7). -/
theorem toNat_flagByte_noBorrow_self (a : Byte) : (flagByte (noBorrow a a)).toNat = 1 :=
  (toNat_flagByte_noBorrow a a).trans (if_neg (lt_irrefl _))

theorem toNat_shiftRight_one (a : Byte) : (a >>> 1).toNat = a.toNat / 2 := by
  rw [BitVec.toNat_ushiftRight, Nat.shiftRight_eq_div_pow, pow_one]

theorem toNat_shiftLeft_one (a : Byte) : (a <<< 1).toNat = 2 * a.toNat % 256 := by
  rw [BitVec.toNat_shiftLeft, Nat.shiftLeft_eq, pow_one, Nat.mul_comm]

/-! An instruction known by its last write: what it leaves in the registers. -/

/-- An instruction that ends with one register write. -/
theorem exists_next_of_setReg {i : Instr} {s : State} {x : Reg} {b : Byte} (h : exec i s = .next (s.setReg x b)) :
    ∃ t, exec i s = .next t ∧ (∀ k, t.reg k = if k = x then b else s.reg k) ∧ OnlyRegs s t :=
  ⟨_, h, fun k => s.reg_setReg x k b, onlyRegs_setReg s x b⟩

section FlagInstr
variable {i : Instr} {s : State} {x : Reg} {b : Byte} {c : Bool} {m n : Nat}

/-- A flag instruction, the result and the flag being `m` and `n` as numbers: the flag wins where X = F. -/
theorem exists_next_of_setRegFlag (h : exec i s = .next (s.setRegFlag x b c)) (hb : b.toNat = m) (hc : (flagByte c).toNat = n) :
    ∃ t, exec i s = .next t ∧
      (∀ k, (t.reg k).toNat = if k = 15 then n else if k = x then m else (s.reg k).toNat) ∧ OnlyRegs s t := by
  refine ⟨_, h, fun k => ?_, onlyRegs_setRegFlag s x b c⟩
  simp only [State.reg_setRegFlag, apply_ite BitVec.toNat, hb, hc]

/-- VF after a flag instruction, whatever X is. -/
theorem exists_vf_of_setRegFlag (h : exec i s = .next (s.setRegFlag x b c)) (hc : (flagByte c).toNat = n) :
    ∃ t, exec i s = .next t ∧ (t.reg 15).toNat = n := by
  obtain ⟨t, ht, hreg, -⟩ := exists_next_of_setRegFlag h rfl hc
  exact ⟨t, ht, (hreg 15).trans (if_pos rfl)⟩

/-- VX and VF after a flag instruction whose X is not F. -/
theorem exists_result_vf_of_setRegFlag (hx : x ≠ 15) (h : exec i s = .next (s.setRegFlag x b c)) (hb : b.toNat = m)
    (hc : (flagByte c).toNat = n) : ∃ t, exec i s = .next t ∧ (t.reg x).toNat = m ∧ (t.reg 15).toNat = n := by
  obtain ⟨t, ht, hreg, -⟩ := exists_next_of_setRegFlag h hb hc
  exact ⟨t, ht, by rw [hreg, if_neg hx, if_pos rfl], (hreg 15).trans (if_pos rfl)⟩

end FlagInstr

/-- Settles O23: the value shifted and the bit shifted out, as numbers. -/
theorem shiftsMoveBitIntoVf : Obligations.ShiftsMoveBitIntoVf := fun x y s =>
  ⟨exists_next_of_setRegFlag (exec_shr x y s) (toNat_shiftRight_one _) (toNat_flagByte_bit0 _),
    exists_next_of_setRegFlag (exec_shl x y s) (toNat_shiftLeft_one _) (toNat_flagByte_bit7 _)⟩

/-- Settles O24: with X = F only the flag is left, with Y = F the operand is the old VF, and with both the flag is that of VF and itself. -/
theorem flagRegisterAsOperand : Obligations.FlagRegisterAsOperand := by
  refine fun x y s => ⟨?addF, fun hx => ?addToX, ?addBoth, ?subF, fun hx => ?subFromX, ?subBoth, ?shr, ?shl, ?subnF, fun hx => ?subnX,
    ?subnBoth⟩
  case addF => exact exists_vf_of_setRegFlag (exec_addReg 15 y s) (toNat_flagByte_carryOut _ _)
  case addToX => exact exists_result_vf_of_setRegFlag hx (exec_addReg x 15 s) (toNat_sum8 _ _) (toNat_flagByte_carryOut _ _)
  case addBoth => exact exists_vf_of_setRegFlag (exec_addReg 15 15 s) (toNat_flagByte_carryOut_self _)
  case subF => exact exists_vf_of_setRegFlag (exec_subReg 15 y s) (toNat_flagByte_noBorrow_eq_ite_ge _ _)
  case subFromX => exact exists_result_vf_of_setRegFlag hx (exec_subReg x 15 s) (toNat_diff8 _ _) (toNat_flagByte_noBorrow_eq_ite_ge _ _)
  case subBoth => exact exists_vf_of_setRegFlag (exec_subReg 15 15 s) (toNat_flagByte_noBorrow_self _)
  case shr => exact exists_vf_of_setRegFlag (exec_shr 15 y s) (toNat_flagByte_bit0 _)
  case shl => exact exists_vf_of_setRegFlag (exec_shl 15 y s) (toNat_flagByte_bit7 _)
  case subnF => exact exists_vf_of_setRegFlag (exec_subnReg 15 y s) (toNat_flagByte_noBorrow_eq_ite_ge _ _)
  case subnX => exact exists_result_vf_of_setRegFlag hx (exec_subnReg x 15 s) (toNat_diff8 _ _) (toNat_flagByte_noBorrow_eq_ite_ge _ _)
  case subnBoth => exact exists_vf_of_setRegFlag (exec_subnReg 15 15 s) (toNat_flagByte_noBorrow_self _)

/-- Settles O19: each of the five is one register write. -/
theorem loadsAndLogicWriteOneRegister : Obligations.LoadsAndLogicWriteOneRegister := fun _ _ _ _ =>
  ⟨exists_next_of_setReg rfl, exists_next_of_setReg rfl, exists_next_of_setReg rfl, exists_next_of_setReg rfl, exists_next_of_setReg rfl⟩

/-- Settles O20: one register write, of the sum. -/
theorem addImmediateWraps : Obligations.AddImmediateWraps := by
  intro x nn s
  obtain ⟨t, ht, hreg, honly⟩ := exists_next_of_setReg (i := .addImm x nn) (s := s) rfl
  refine ⟨t, ht, fun k => ?_, honly⟩
  rw [hreg, apply_ite BitVec.toNat, toNat_sum8]

/-- Settles O21: the sum and the carry, as numbers. -/
theorem addSetsCarry : Obligations.AddSetsCarry := fun x y s =>
  exists_next_of_setRegFlag (exec_addReg x y s) (toNat_sum8 _ _) (toNat_flagByte_carryOut _ _)

/-- Settles O22: the difference and the flag, as numbers, in either direction. -/
theorem subtractionsSetNotBorrow : Obligations.SubtractionsSetNotBorrow := fun x y s =>
  ⟨exists_next_of_setRegFlag (exec_subReg x y s) (toNat_diff8 _ _) (toNat_flagByte_noBorrow _ _),
    exists_next_of_setRegFlag (exec_subnReg x y s) (toNat_diff8 _ _) (toNat_flagByte_noBorrow _ _)⟩

end Sys2Proof.Machine
end

section
/-!
Address register and memory (43_index_memory.md). FX33, FX55 and FX65 fault exactly where their run of bytes passes address 4095; within memory
FX33 and FX55 are one write of a run of bytes from I upward, FX65 is one write of the registers.
-/
namespace Sys2Proof.Machine

/-! A run of bytes written from `base` upward (20_memory.md R206). -/

section WrittenRun
variable {m : Memory} {base : Nat} {bs : List Byte}

/-- The byte at an offset of the run is the one written there. -/
theorem readByte_writeBytes_of_getElem? (hmem : m.wf) (hfit : base + bs.length ≤ Config.memSize) {k : Nat} {b : Byte} (hk : bs[k]? = some b) :
    readByte (writeBytes m base bs) (base + k) = b := by
  rw [readByte_writeBytes hmem _ _ hfit, if_pos (Nat.le_add_right ..), Nat.add_sub_cancel_left, hk, Option.getD_some]

/-- A byte below the run or past it is kept. -/
theorem readByte_writeBytes_of_outside (hmem : m.wf) (hfit : base + bs.length ≤ Config.memSize) {a : Nat}
    (ha : a < base ∨ base + bs.length ≤ a) : readByte (writeBytes m base bs) a = readByte m a := by
  rw [readByte_writeBytes hmem _ _ hfit]
  obtain hbelow | hpast := ha
  · exact if_neg (Nat.not_le.2 hbelow)
  · rw [List.getElem?_eq_none (by omega), Option.getD_none, ite_self]

end WrittenRun

theorem onlyBytes_setMem_writeBytes {s : State} (hmem : s.mem.wf) {base : Nat} {bs : List Byte} (hfit : base + bs.length ≤ Config.memSize) :
    OnlyBytes base bs.length s (s.setMem (writeBytes s.mem base bs)) :=
  ⟨rfl, fun _ ha => readByte_writeBytes_of_outside hmem hfit ha⟩

/-! The effects as writes of one element. -/

theorem effect_ldMemVx (x : Reg) (s : State) :
    effect (.ldMemVx x) s = s.setMem (writeBytes s.mem (dataAddress s 0) (regsUpTo s x)) := rfl

theorem effect_ldVxMem (x : Reg) (s : State) : effect (.ldVxMem x) s = s.setV (loadRegs s (dataAddress s 0) x) := rfl

/-- FX65 has its effect when its last byte is in memory (43_index_memory.md R476). -/
theorem exec_ldVxMem_of_le {x : Reg} {s : State} (h : s.i.toNat + x.val ≤ 4095) : exec (.ldVxMem x) s = .next (effect (.ldVxMem x) s) :=
  exec_of_no_fault (if_neg (Nat.not_lt.2 h))

theorem reg_effect_ldVxMem (x k : Reg) (s : State) :
    (effect (.ldVxMem x) s).reg k = if k ≤ x then readByte s.mem (dataAddress s k.val) else s.reg k := by
  rw [effect_ldVxMem, State.reg_setV, get_loadRegs]
  rfl

theorem onlyRegs_setV (s : State) (v : Vector Byte 16) : OnlyRegs s (s.setV v) := ⟨rfl, fun _ => rfl⟩

theorem onlyIndex_setI (s : State) (a : Word) : OnlyIndex s (s.setI a) := ⟨rfl, fun _ => rfl⟩

/-! The values of I as numbers. -/

theorem toNat_add_zext16 (a : Word) (b : Byte) : (a + zext16 b).toNat = (a.toNat + b.toNat) % 65536 := by
  rw [BitVec.toNat_add, toNat_zext16]

/-- Five times a byte is at most 1275, so FX29 does not wrap (43_index_memory.md R473). -/
theorem toNat_zext16_mul_five (b : Byte) : (zext16 b * 5).toNat = b.toNat * 5 := by
  have hb := b.isLt
  rw [BitVec.toNat_mul, toNat_zext16]
  exact Nat.mod_eq_of_lt (by change b.toNat * 5 < 65536; omega)

/-! FX33 within memory. -/

theorem decimalDigits_fit {x : Reg} {s : State} (hle : s.i.toNat + 2 ≤ 4095) :
    dataAddress s 0 + (decimalDigits (s.reg x)).length ≤ Config.memSize := Nat.succ_le_succ hle

/-- What FX33 leaves at `I + k` is the digit `k` as a number. -/
theorem toNat_readByte_effect_ldBVx {x : Reg} {s : State} (hmem : s.mem.wf) (hle : s.i.toNat + 2 ≤ 4095) {k n : Nat}
    (hk : (decimalDigits (s.reg x))[k]? = some (BitVec.ofNat 8 n)) (hn : n < 256) :
    (readByte (effect (.ldBVx x) s).mem (dataAddress s k)).toNat = n := by
  have hread : readByte (effect (.ldBVx x) s).mem (dataAddress s k) = BitVec.ofNat 8 n :=
    readByte_writeBytes_of_getElem? hmem (decimalDigits_fit hle) hk
  rw [hread, BitVec.toNat_ofNat, Nat.mod_eq_of_lt hn]

/-- Settles O28: in range the three digits, each below 256, are the run written from I upward; past it the fault is that of the bounds
check. -/
theorem decimalDigitsAreStored : Obligations.DecimalDigitsAreStored := by
  refine fun x s hmem => ⟨fun hle => ?stored, fun hgt => ⟨_, exec_of_fault (if_pos hgt), rfl⟩⟩
  case stored =>
    have hx := (s.reg x).isLt
    refine ⟨_, exec_of_no_fault (if_neg (Nat.not_lt.2 hle)), ?hundreds, ?tens, ?ones, ?frame⟩
    case hundreds => exact toNat_readByte_effect_ldBVx hmem hle rfl (by omega)
    case tens => exact toNat_readByte_effect_ldBVx hmem hle rfl (by omega)
    case ones => exact toNat_readByte_effect_ldBVx hmem hle rfl (by omega)
    case frame => exact onlyBytes_setMem_writeBytes hmem (decimalDigits_fit hle)

/-- Settles O29: in range V0 to VX are the run written from I upward, past it the fault is that of the bounds check. -/
theorem registersAreStored : Obligations.RegistersAreStored := by
  refine fun x s hmem => ⟨fun hle => ?stored, fun hgt => ⟨_, exec_of_fault (if_pos hgt), rfl⟩⟩
  case stored =>
    have hlen : (regsUpTo s x).length = x.val + 1 := regsUpTo_length s x
    have hfit : dataAddress s 0 + (regsUpTo s x).length ≤ Config.memSize := by
      rw [hlen]
      exact Nat.succ_le_succ hle
    refine ⟨_, exec_ldMemVx_of_le hle, fun k hk => readByte_effect_ldMemVx hmem hle hk, ?_⟩
    rw [effect_ldMemVx, ← hlen]
    exact onlyBytes_setMem_writeBytes hmem hfit

/-- Settles O31: FX55 keeps I, so FX65 reads the run that FX55 wrote; it keeps the registers above VX. -/
theorem storeThenLoadRestoresRegisters : Obligations.StoreThenLoadRestoresRegisters := by
  intro x v s hmem hle
  refine ⟨_, _, exec_ldMemVx_of_le hle, exec_ldVxMem_of_le hle, fun k => ?_⟩
  rw [reg_effect_ldVxMem]
  by_cases hk : k ≤ x
  · rw [if_pos hk, if_pos hk]
    exact readByte_effect_ldMemVx hmem hle hk
  · rw [if_neg hk, if_neg hk, State.reg_setV]

/-- Settles O27: each of the three is one write of I. -/
theorem indexInstructionsComputeI : Obligations.IndexInstructionsComputeI := fun x nnn s =>
  ⟨⟨_, rfl, toNat_addrOperand nnn, onlyIndex_setI s _⟩, ⟨_, rfl, toNat_add_zext16 s.i (s.reg x), onlyIndex_setI s _⟩,
    ⟨_, rfl, toNat_zext16_mul_five (s.reg x), onlyIndex_setI s _⟩⟩

/-- Settles O30: in range FX65 is one write of the registers, past it the fault is that of the bounds check. -/
theorem registersAreLoaded : Obligations.RegistersAreLoaded := fun x s =>
  ⟨fun hle => ⟨_, exec_ldVxMem_of_le hle, fun k => reg_effect_ldVxMem x k s, onlyRegs_setV s _⟩,
    fun hgt => ⟨_, exec_of_fault (if_pos hgt), rfl⟩⟩

end Sys2Proof.Machine
end

section
/-!
Random numbers (44_random.md): CXNN is the one instruction that advances the generator (R493), and of the commands only RESET and STEP touch its
state (R496).
-/
namespace Sys2Proof.Machine

theorem effect_rnd (x : Reg) (nn : Byte) (s : State) :
    effect (.rnd x nn) s = (s.setRng (Config.rngStep s.rng).1).setReg x ((Config.rngStep s.rng).2 &&& nn) := rfl

/-- A masked byte has no bit outside the mask. -/
theorem and_and_not_self (b nn : Byte) : b &&& nn &&& ~~~nn = 0 := by
  rw [BitVec.and_assoc, BitVec.and_not_self]
  exact BitVec.and_zero

/-- Settles O34: CXNN raises no fault, and its effect is one advance of the generator and one register write. -/
theorem randomMasksOneByte : Obligations.RandomMasksOneByte := by
  intro x nn s
  have hreg : ∀ k, (effect (.rnd x nn) s).reg k = if k = x then (Config.rngStep s.rng).2 &&& nn else s.reg k := fun k => by
    rw [effect_rnd, State.reg_setReg, State.setRng_reg]
  refine ⟨_, exec_of_no_fault rfl, rfl, hreg, ?mask, rfl, fun _ => rfl⟩
  case mask => rw [hreg, if_pos rfl, and_and_not_self]

/-! The commands but RESET and STEP: each keeps the generator state, or takes a fault, after which the core does not run. -/

theorem rng_loadImage_of_running (bytes : List Byte) (s : State) : Running (loadImage bytes s) → (loadImage bytes s).rng = s.rng := by
  unfold loadImage
  split
  · exact fun _ => State.setMem_rng s _
  · exact nofun

theorem rng_pressKey_of_running (index : Nat) (pressed : Bool) (s : State) :
    Running (pressKey index pressed s) → (pressKey index pressed s).rng = s.rng := by
  unfold pressKey
  split
  · exact fun _ => State.setKey_rng s _
  · exact nofun

theorem rng_whenRunning_of_running {s t : State} (h : Running t → t.rng = s.rng) :
    Running (whenRunning s t) → (whenRunning s t).rng = s.rng := by
  unfold whenRunning
  split
  · exact h
  · exact fun _ => rfl

/-- Settles O54, command by command. -/
theorem hostCommandsKeepTheGenerator : Obligations.HostCommandsKeepTheGenerator := by
  intro c s t hreset hstep h
  cases c with
  | reset => exact absurd rfl hreset
  | step => exact absurd rfl hstep
  | load bytes => exact Host.Outcome.next.inj h ▸ rng_whenRunning_of_running (rng_loadImage_of_running bytes s)
  | pressKey index pressed => exact Host.Outcome.next.inj h ▸ rng_whenRunning_of_running (rng_pressKey_of_running index pressed s)
  | tick => exact Host.Outcome.next.inj h ▸ rng_whenRunning_of_running fun _ => rfl
  | getDisplay => exact Host.Outcome.next.inj h ▸ fun _ => rfl

end Sys2Proof.Machine
end

section
/-!
Display (45_display.md): CLS is one write of the display, DXYN one write of it and then one of VF. The compositer's list of pixels is the set that
`Covers` speaks of, and DXYN changes nothing that `Covers` reads but a coordinate held in VF.
-/
namespace Sys2Proof.Machine

/-- The compositer lights the pixels that R501 says the sprite covers. -/
theorem mem_spritePixels_iff_covers {x y : Reg} {n p : Nat} {s : State} :
    p ∈ spritePixels (s.reg x) (s.reg y) 0 (readBytes s.mem (dataAddress s 0) n) ↔ Covers s x y n p := by
  rw [mem_spritePixels]
  constructor
  · rintro ⟨r, row, hrow, c, hc, hbit, rfl⟩
    obtain ⟨hr, rfl⟩ := Option.ite_some_none_eq_some.1 ((getElem?_readBytes ..).symm.trans hrow)
    exact ⟨r, hr, c, hc, hbit, by rw [Nat.zero_add]; rfl⟩
  · rintro ⟨r, hr, c, hc, hbit, rfl⟩
    exact ⟨r, _, (getElem?_readBytes ..).trans (if_pos hr), c, hc, hbit, by rw [Nat.zero_add]; rfl⟩

section Draw
variable {x y : Reg} {n : Nibble} {s : State}

theorem pixel_drawn {p : Nat} : pixel (drawn x y n s).1 p = true ↔ pixel s.disp p = true ∨ Covers s x y n.toNat p := by
  rw [drawn, pixel_drawSprite, Bool.or_eq_true, decide_eq_true_iff, mem_spritePixels_iff_covers, or_comm]

/-- At most 15 rows are drawn, so no pixel is covered twice and the flag speaks of the pixels before the draw (45_display.md R507). -/
theorem drawn_hit : (drawn x y n s).2 = true ↔ ∃ p, Covers s x y n.toNat p ∧ pixel s.disp p = true := by
  have hn : n.toNat < 16 := n.isLt
  rw [drawn, drawSprite_hit _ _ _ _ (by rw [readBytes_length]; omega), decide_eq_true_iff]
  simp only [mem_spritePixels_iff_covers]

theorem effect_drw (x y : Reg) (n : Nibble) (s : State) :
    effect (.drw x y n) s = (s.setDisp (drawn x y n s).1).setReg vf (flagByte (drawn x y n s).2) := rfl

theorem reg_effect_drw (k : Reg) : (effect (.drw x y n) s).reg k = if k = 15 then flagByte (drawn x y n s).2 else s.reg k := by
  rw [effect_drw, State.reg_setReg, State.setDisp_reg]

theorem flagByte_eq_one_iff {c : Bool} : flagByte c = 1 ↔ c = true := by cases c <;> decide

/-- VF after a draw tells a collision (45_display.md R501). -/
theorem vf_effect_drw_eq_one_iff :
    (effect (.drw x y n) s).reg 15 = 1 ↔ ∃ p, Covers s x y n.toNat p ∧ pixel s.disp p = true := by
  rw [reg_effect_drw, if_pos rfl, flagByte_eq_one_iff, drawn_hit]

/-- Without a collision VF is 0 after a draw (45_display.md R501). -/
theorem vf_effect_drw_of_no_collision (h : ¬ ∃ p, Covers s x y n.toNat p ∧ pixel s.disp p = true) :
    (effect (.drw x y n) s).reg 15 = 0 := by
  rw [reg_effect_drw, if_pos rfl, Bool.eq_false_iff.2 (mt drawn_hit.1 h)]
  rfl

/-- A draw keeps memory, I and the coordinates held outside VF, so the sprite covers the same pixels again. -/
theorem covers_effect_drw (hx : x ≠ 15) (hy : y ≠ 15) {p : Nat} :
    Covers (effect (.drw x y n) s) x y n.toNat p ↔ Covers s x y n.toNat p := by
  rw [Covers, reg_effect_drw, reg_effect_drw, if_neg hx, if_neg hy]
  rfl

end Draw

/-- Settles O36, by the condition of the fault: in range the draw has its effect, past it the fault is that of the bounds check. -/
theorem drawLightsCoveredPixels : Obligations.DrawLightsCoveredPixels := by
  refine fun x y n s => ⟨fun hrange => ?inRange, fun hn hpast => ⟨_, exec_of_fault (if_pos ⟨hn, hpast⟩), rfl⟩⟩
  case inRange =>
    have hfault : ownFault (.drw x y n) s = none := if_neg (by omega)
    exact ⟨_, exec_of_no_fault hfault, fun _ => pixel_drawn, vf_effect_drw_eq_one_iff.2, vf_effect_drw_of_no_collision,
      fun k hk => (reg_effect_drw k).trans (if_neg hk), rfl, fun _ => rfl⟩

/-- Settles O38: the first draw had its effect, after which every covered pixel is true, so the second adds none and collides on each. -/
theorem redrawKeepsPixelsAndCollides : Obligations.RedrawKeepsPixelsAndCollides := by
  intro x y n s t hx hy hexec hrun
  obtain ⟨hfault, rfl⟩ | ⟨f, a, w, rfl⟩ := exec_cases hexec
  case inr => exact nomatch hrun
  have hlit {p : Nat} (hp : Covers s x y n.toNat p) : pixel (effect (.drw x y n) s).disp p = true := pixel_drawn.2 (.inr hp)
  have hagain (p : Nat) : pixel (effect (.drw x y n) (effect (.drw x y n) s)).disp p = pixel (effect (.drw x y n) s).disp p := by
    refine Bool.eq_iff_iff.2 (pixel_drawn.trans (or_iff_left_of_imp fun hp => hlit ?_))
    exact (covers_effect_drw hx hy).1 hp
  refine ⟨_, exec_of_no_fault hfault, hagain, ?collides, fun p hp => (hagain p).trans (hlit hp)⟩
  case collides =>
    rw [vf_effect_drw_eq_one_iff]
    simp only [covers_effect_drw hx hy]
    exact exists_congr fun p => and_iff_left_of_imp hlit

theorem of_dispAfter_ne {i : Instr} {s : State} (h : dispAfter i s ≠ s.disp) : i = .cls ∨ ∃ x y n, i = .drw x y n := by
  unfold dispAfter at h
  split at h
  · exact .inl rfl
  · exact .inr ⟨_, _, _, rfl⟩
  · exact absurd rfl h

/-- Drawing ORs, so only CLS turns a pixel off (45_display.md R504). -/
theorem pixel_dispAfter_of_ne_cls {i : Instr} (hi : i ≠ .cls) {s : State} {p : Nat} (hp : pixel s.disp p = true) :
    pixel (dispAfter i s) p = true := by
  unfold dispAfter
  split
  · exact absurd rfl hi
  · exact pixel_drawn.2 (.inl hp)
  · exact hp

/-- Settles O39: the core still runs, so the instruction had its effect, whose display is `dispAfter`. -/
theorem pixelsGoOffOnlyByClear : Obligations.PixelsGoOffOnlyByClear := by
  intro i s t hexec hrun
  obtain rfl := eq_effect_of_running hexec hrun
  refine ⟨of_dispAfter_ne, fun p hon hoff => ?_⟩
  by_contra hi
  exact Bool.false_ne_true (hoff.symm.trans (pixel_dispAfter_of_ne_cls hi hon))

/-- Settles O35: CLS is one write of the display. -/
theorem clearTurnsEveryPixelOff : Obligations.ClearTurnsEveryPixelOff := fun _ =>
  ⟨_, rfl, pixel_blankDisplay, rfl, fun _ => rfl⟩

/-- With no row there is nothing to check and nothing to draw: what is left of DXY0 is the write of VF. -/
theorem exec_drw_zero (x y : Reg) (s : State) : exec (.drw x y 0) s = .next (s.setReg vf 0) :=
  exec_of_no_fault rfl

/-- Settles O37: DXY0 is one write of VF, for every I. -/
theorem drawOfNoRowsClearsVf : Obligations.DrawOfNoRowsClearsVf := fun x y s =>
  ⟨_, exec_drw_zero x y s, fun _ => rfl, fun k => s.reg_setReg vf k 0, onlyRegs_setReg s vf 0⟩

end Sys2Proof.Machine
end

section
/-!
Keypad (46_keypad.md): a key skip is one write of `pc` where VX names a key and a fault where it does not; the key wait is one write, of VX with
the lowest pressed index or of `pc` with the instruction's own address.
-/
namespace Sys2Proof.Machine

/-! The key skips. -/

theorem keyAt_val (s : State) (k : Fin 16) : s.keyAt k.val = some (s.key.get k) := dif_pos k.isLt

section NamedKey
variable {x : Reg} {s : State} {k : Fin 16} (hk : k.val = (s.reg x).toNat)
include hk

/-- SKP where VX names a key (46_keypad.md R520). -/
theorem exec_skp_of_key : exec (.skp x) s = .next (s.setPc (skipPc (s.key.get k) s)) := by
  change execSkp x s = _
  rw [execSkp, ← hk, keyAt_val]
  exact congrArg Host.Outcome.next (skipIf_eq_setPc _ s)

/-- SKNP where VX names a key (46_keypad.md R521). -/
theorem exec_sknp_of_key : exec (.sknp x) s = .next (s.setPc (skipPc (!s.key.get k) s)) := by
  change execSknp x s = _
  rw [execSknp, ← hk, keyAt_val]
  exact congrArg Host.Outcome.next (skipIf_eq_setPc _ s)

end NamedKey

/-- The condition of SKNP: the skip is where SKP has none. -/
theorem skipPc_not (c : Bool) (s : State) : skipPc (!c) s = if c = true then s.pc else s.pc + 2 := by
  cases c <;> rfl

/-- Settles O41, by whether VX names a key: one write of `pc`, or the fault with the instruction's own address and word. -/
theorem keySkipsFollowTheLatch : Obligations.KeySkipsFollowTheLatch := by
  refine fun x s => ⟨fun k hk => ⟨?skp, ?sknp⟩, fun hpast => ⟨?skpFault, ?sknpFault⟩⟩
  case skp => exact ⟨_, exec_skp_of_key hk, rfl, onlyPc_setPc s _⟩
  case sknp => exact ⟨_, exec_sknp_of_key hk, skipPc_not _ s, onlyPc_setPc s _⟩
  case skpFault => exact ⟨_, exec_of_fault (if_pos hpast), rfl⟩
  case sknpFault => exact ⟨_, exec_of_fault (if_pos hpast), rfl⟩

/-! The key wait (46_keypad.md R522). -/

theorem exec_ldVxK_of_pressed (x : Reg) {s : State} {k : Reg} (h : lowestPressed s.key = some k) :
    exec (.ldVxK x) s = .next (s.setReg x (BitVec.ofNat 8 k.val)) := by
  change execLdVxK x s = _
  rw [execLdVxK, h]

theorem exec_ldVxK_of_none (x : Reg) {s : State} (h : lowestPressed s.key = none) :
    exec (.ldVxK x) s = .next (s.setPc (s.pc - 2)) := by
  change execLdVxK x s = _
  rw [execLdVxK, h]
  rfl

/-- Settles O42, by what the scan of the latch finds: the index it finds goes to VX, or `pc` goes back. -/
theorem keyWaitTakesLowestKey : Obligations.KeyWaitTakesLowestKey := by
  refine fun x s => ⟨fun k hk hlow => ?pressed, fun hnone => ?none⟩
  case pressed =>
    obtain ⟨t, ht, hreg, honly⟩ := exists_next_of_setReg (exec_ldVxK_of_pressed x (lowestPressed_eq_some.2 ⟨hk, hlow⟩))
    have hx : (t.reg x).toNat = k.val := by rw [hreg, if_pos rfl, BitVec.toNat_ofNat, Nat.mod_eq_of_lt (by omega)]
    exact ⟨t, ht, hx, fun j hj => (hreg j).trans (if_neg hj), honly⟩
  case none => exact ⟨_, exec_ldVxK_of_none x (lowestPressed_eq_none.2 hnone), rfl, onlyPc_setPc s _⟩

/-- Settles O43: the fetch moves `pc` by 2 and keeps the latch, and the key wait moves `pc` back (46_keypad.md R525). -/
theorem keyWaitPollsInPlace : Obligations.KeyWaitPollsInPlace := by
  intro x s hrun hpc hword hnone
  have hd : decodeWord (wordAtPc s) = .ok (.ldVxK x) := by rw [hword]; exact decodeWord_encode _
  calc step s
      = exec (.ldVxK x) (s.setPc (s.pc + 2)) := step_of_decode hrun hpc hd
    _ = .next (s.setPc (s.pc + 2 - 2)) := exec_ldVxK_of_none x (lowestPressed_eq_none.2 hnone)
    _ = .next s := by rw [BitVec.add_sub_cancel]; rfl

end Sys2Proof.Machine
end

section
/-!
Timers (47_timers.md): the three instructions are one write each; a TICK of a running core takes one off each timer, floored at zero, and keeps
the core running, so a run of TICKs is an induction on their number.
-/
namespace Sys2Proof.Machine

/-- Settles O44: each instruction is one write, of VX, of DT or of ST. -/
theorem timerInstructionsMoveBytes : Obligations.TimerInstructionsMoveBytes := by
  refine fun x s => ⟨?ldVxDt, ?ldDtVx, ?ldStVx⟩
  case ldVxDt => exact exists_next_of_setReg rfl
  case ldDtVx => exact ⟨s.setDt (s.reg x), rfl, s.setDt_dt _, rfl, fun _ => rfl⟩
  case ldStVx => exact ⟨s.setSt (s.reg x), rfl, s.setSt_st _, rfl, fun _ => rfl⟩

/-! One TICK. -/

/-- The floor at zero is that of subtraction on numbers. -/
theorem toNat_countDown (b : Byte) : (countDown b).toNat = b.toNat - 1 := by
  by_cases h : b.toNat > 0
  · rw [countDown, if_pos h]
    exact BitVec.toNat_sub_of_le h
  · rw [countDown, if_neg h]
    omega

theorem toNat_dt_countTimers (s : State) : (countTimers s).dt.toNat = s.dt.toNat - 1 := toNat_countDown s.dt

theorem toNat_st_countTimers (s : State) : (countTimers s).st.toNat = s.st.toNat - 1 := toNat_countDown s.st

theorem running_countTimers {s : State} (h : Running s) : Running (countTimers s) := h

theorem whenRunning_of_running {s : State} (h : Running s) (t : State) : whenRunning s t = t := by
  rw [whenRunning, h]

theorem command_tick_of_running {s : State} (h : Running s) : command .tick s = .next (countTimers s) :=
  congrArg Host.Outcome.next (whenRunning_of_running h _)

/-- Settles O45: TICK is a write of DT and a write of ST, each one less as a number. -/
theorem tickCountsDown : Obligations.TickCountsDown := fun s hrun =>
  ⟨countTimers s, command_tick_of_running hrun, toNat_dt_countTimers s, toNat_st_countTimers s, rfl, fun _ => rfl⟩

/-! A run of TICKs (47_timers.md R546). -/

/-- Settles O46, by induction on the number of TICKs: the first leaves a running core with one less in each timer. -/
theorem timersReachZeroAfterExactlyNTicks : Obligations.TimersReachZeroAfterExactlyNTicks := by
  intro n
  induction n with
  | zero => exact fun s _ => ⟨s, rfl, rfl, rfl⟩
  | succ n ih =>
    intro s hrun
    obtain ⟨t, ht, hdt, hst⟩ := ih (countTimers s) (running_countTimers hrun)
    refine ⟨t, ?_, ?_, ?_⟩
    · rw [List.replicate_succ, commands_cons_of_next (command_tick_of_running hrun), ht]
    · rw [hdt, toNat_dt_countTimers, Nat.sub_sub, Nat.add_comm]
    · rw [hst, toNat_st_countTimers, Nat.sub_sub, Nat.add_comm]

/-! The tone trigger (47_timers.md R547). -/

theorem toneTrigger_iff_of_running {s : State} (h : Running s) : toneTrigger s = true ↔ s.st.toNat = 1 := by
  rw [toneTrigger, h, beq_self_eq_true, Bool.true_and, beq_iff_eq, BitVec.toNat_eq]
  rfl

/-- A TICK of a running core leaves 0 in ST where ST is at most 1. -/
theorem tick_leaves_st_zero_iff {s : State} (h : Running s) : (∃ t, command .tick s = .next t ∧ t.st.toNat = 0) ↔ s.st.toNat ≤ 1 := by
  rw [command_tick_of_running h, ← Nat.sub_eq_zero_iff_le, ← toNat_st_countTimers]
  refine ⟨?_, fun h0 => ⟨_, rfl, h0⟩⟩
  rintro ⟨t, ht, h0⟩
  exact Host.Outcome.next.inj ht ▸ h0

/-- Settles O47: a nonzero ST that the TICK takes to 0 is at least 1 and at most 1. -/
theorem toneTriggersOnLastTick : Obligations.ToneTriggersOnLastTick := by
  intro s hrun
  refine ⟨toneTrigger_iff_of_running hrun, ?_⟩
  rw [toneTrigger_iff_of_running hrun, tick_leaves_st_zero_iff hrun]
  omega

end Sys2Proof.Machine
end

section
/-!
The host interface (50_host_interface.md): on a running core LOAD is one write of a run of bytes and PRESS_KEY one write of a key flag, or each
takes its fault; STEP executes what it fetched; and every command of the host completes and tells no two alike states apart.
-/
namespace Sys2Proof.Machine

/-! LOAD (50_host_interface.md R610). -/

theorem command_load_of_running {s : State} (h : Running s) (bytes : List Byte) : command (.load bytes) s = .next (loadImage bytes s) :=
  congrArg Host.Outcome.next (whenRunning_of_running h _)

theorem loadImage_of_le {bytes : List Byte} (h : bytes.length ≤ 3584) (s : State) :
    loadImage bytes s = s.setMem (writeBytes s.mem Config.progBase bytes) := if_pos (imageFits_iff.2 h)

theorem loadImage_of_gt {bytes : List Byte} (h : bytes.length > 3584) (s : State) :
    loadImage bytes s = takeFault .imageTooLarge (saturate16 bytes.length) 0 s :=
  if_neg fun hfits => Nat.not_le.2 h (imageFits_iff.1 hfits)

/-- An image of at most 3584 bytes ends in the address space. -/
theorem image_fits_memory {bytes : List Byte} (h : bytes.length ≤ 3584) : Config.progBase + bytes.length ≤ Config.memSize :=
  Nat.add_le_add_left h Config.progBase

/-- Settles O49, by the length of the image: one run of bytes written from 0x200, or the fault. -/
theorem loadWritesTheImage : Obligations.LoadWritesTheImage := by
  intro bytes s hrun hmem
  rw [command_load_of_running hrun]
  refine ⟨fun hle => ?written, fun hgt => ?tooLarge⟩
  case written =>
    have hfit := image_fits_memory hle
    rw [loadImage_of_le hle]
    refine ⟨_, rfl, fun k hk => ?_, onlyBytes_setMem_writeBytes hmem hfit⟩
    exact readByte_writeBytes_of_getElem? hmem hfit (List.getElem?_eq_getElem hk)
  case tooLarge =>
    rw [loadImage_of_gt hgt]
    exact ⟨_, rfl, rfl⟩

/-! PRESS_KEY (50_host_interface.md R615). -/

theorem command_pressKey_of_running {s : State} (h : Running s) (index : Nat) (pressed : Bool) :
    command (.pressKey index pressed) s = .next (pressKey index pressed s) :=
  congrArg Host.Outcome.next (whenRunning_of_running h _)

theorem pressKey_of_le {index : Nat} (h : index ≤ 15) (pressed : Bool) (s : State) :
    pressKey index pressed s = s.setKey (s.key.setIfInBounds index pressed) := if_pos (keyInRange_iff.2 h)

theorem pressKey_of_gt {index : Nat} (h : index > 15) (pressed : Bool) (s : State) :
    pressKey index pressed s = takeFault .keyIndexOutOfRange (saturate16 index) 0 s :=
  if_neg fun hrange => Nat.not_le.2 h (keyInRange_iff.1 hrange)

/-- A number that the record's field holds is recorded as it is (60_exceptions.md R701). -/
theorem toNat_saturate16_of_le {n : Nat} (h : n ≤ 0xFFFF) : (saturate16 n).toNat = n := by
  rw [saturate16, Nat.min_eq_left h, BitVec.toNat_ofNat, Nat.mod_eq_of_lt (Nat.lt_succ_of_le h)]

/-- Settles O50, by the index: one flag written, or the fault. -/
theorem pressKeySetsOneFlag : Obligations.PressKeySetsOneFlag := by
  intro index pressed s hrun
  rw [command_pressKey_of_running hrun]
  refine ⟨fun hle => ?flag, fun hgt => ?outOfRange⟩
  case flag =>
    rw [pressKey_of_le hle]
    refine ⟨_, rfl, fun k => ?_, rfl, fun _ => rfl⟩
    simp only [State.setKey_key, Vector.get_eq_getElem, Vector.getElem_setIfInBounds, eq_comm]
  case outOfRange =>
    rw [pressKey_of_gt hgt]
    exact ⟨_, _, rfl, rfl, toNat_saturate16_of_le⟩

/-! STEP and GET_DISPLAY. -/

/-- Settles O8: the fetch is in range and the decode accepts, so neither faults. -/
theorem stepRunsDecodedInstruction : Obligations.StepRunsDecodedInstruction := fun _ _ => step_of_decode

/-- Settles O40: the pixel of index y * 64 + x is in row y at place x. -/
theorem displayViewIsRowMajor : Obligations.DisplayViewIsRowMajor := by
  refine fun s => ⟨rfl, fun y x hx => ?_⟩
  have hrow : (y.val * 64 + x) / 64 = y.val := by omega
  have hplace : (y.val * 64 + x) % 64 = x := by omega
  simp only [pixel, Config.dispWidth, hrow, hplace, dif_pos y.isLt]
  rfl

/-! All commands. -/

/-- Settles O9, command by command: STEP keeps a faulted core, takes a fault of the fetch, or executes an instruction, which answers a next
state. -/
theorem everyCommandCompletes : Obligations.EveryCommandCompletes := by
  intro c s
  cases c with
  | step =>
    obtain hrun | ⟨f, a, w, hfault⟩ := running_or_faulted s
    · obtain ⟨i, -, hstep⟩ | ⟨f, a, w, hstep⟩ := step_of_running hrun
      · exact ⟨_, hstep.trans (exec_eq i _)⟩
      · exact ⟨_, hstep⟩
    · exact ⟨_, step_of_faulted hfault⟩
  | reset | load | pressKey | tick | getDisplay => exact ⟨_, rfl⟩

/-- Settles O60: what two alike states answer is alike, and a command has one answer. -/
theorem commandsKeepStatesAlike : Obligations.CommandsKeepStatesAlike := by
  intro c s t s' hsame h
  obtain ⟨s₁, t', hs, ht, halike⟩ := command_sameToTheHost hsame c
  obtain rfl : s' = s₁ := Host.Outcome.next.inj (h.symm.trans hs)
  exact ⟨t', ht, halike⟩

end Sys2Proof.Machine
end

section
/-!
Exceptions (60_exceptions.md): the faults of the decode and of the instructions are exactly those listed, a fault is sticky, and the host sees
its code.
-/
namespace Sys2Proof.Machine

/-- Settles O7: a word that selects no row does not decode, and the fetch moved `pc` by the 2 that the record takes back. -/
theorem illegalWordFaults : Obligations.IllegalWordFaults := by
  intro s hrun hpc hnone
  cases hd : decodeWord (wordAtPc s) with
  | ok i =>
    obtain ⟨r, hr, hselects⟩ := (decodeAcceptsExactlyTheMap _).1 ⟨i, hd⟩
    exact absurd hselects (Bool.eq_false_iff.1 (hnone r hr))
  | error e =>
    refine ⟨_, by rw [step, hrun, fetchDecode_of_reject hpc hd], ?_⟩
    rw [BitVec.add_sub_cancel]
    rfl

/-! The instructions' own faults. -/

theorem running_effect {s : State} (h : Running s) (i : Instr) : Running (effect i s) := h

/-- Settles O10: an instruction takes its own fault or has its effect, which keeps the status. -/
theorem instructionFaultsExactlyWhenListed : Obligations.InstructionFaultsExactlyWhenListed := fun i _ hrun =>
  ⟨fun _ hfault => ⟨_, exec_of_fault hfault, rfl⟩, fun hnone => ⟨_, exec_of_no_fault hnone, running_effect hrun i⟩⟩

/-- On a running core a fault is held after an instruction exactly when it is the instruction's own. -/
theorem faulted_iff_ownFault {i : Instr} {s t : State} {f : Fault} (hrun : Running s) (h : exec i s = .next t) :
    (∃ a w, FaultedWith t f a w) ↔ ownFault i s = some f := by
  cases hown : ownFault i s with
  | none =>
    obtain rfl := Host.Outcome.next.inj ((exec_of_no_fault hown).symm.trans h)
    exact ⟨fun ⟨_, _, hfault⟩ => (nomatch (running_effect hrun i).symm.trans hfault), nofun⟩
  | some g =>
    obtain rfl := Host.Outcome.next.inj ((exec_of_fault hown).symm.trans h)
    simp [FaultedWith]

/-- An instruction that raises one fault under one condition. -/
theorem faulted_iff_of_ownFault_eq_ite {i : Instr} {s t : State} {f : Fault} {p : Prop} [Decidable p] (hrun : Running s)
    (hown : ownFault i s = if p then some f else none) (h : exec i s = .next t) : (∃ a w, FaultedWith t f a w) ↔ p := by
  rw [faulted_iff_ownFault hrun h, hown, Option.ite_none_right_eq_some, and_iff_left rfl]

/-- Settles O32: the condition of each of the four is that of its own fault. -/
theorem dataRunsAreBoundsChecked : Obligations.DataRunsAreBoundsChecked := fun _ _ _ _ _ hrun =>
  ⟨faulted_iff_of_ownFault_eq_ite hrun rfl, faulted_iff_of_ownFault_eq_ite hrun rfl, faulted_iff_of_ownFault_eq_ite hrun rfl,
    faulted_iff_of_ownFault_eq_ite hrun rfl⟩

/-- Settles O11: what a faulted core ignores, and the status after RESET. -/
theorem faultIsStickyUntilReset : Obligations.FaultIsStickyUntilReset := fun _ _ _ _ hfault =>
  ⟨fun _ => command_of_faulted hfault, _, rfl, rfl⟩

/-! The code that the host sees (60_exceptions.md R701). -/

theorem statusCode_of_running {s : State} (h : Running s) : statusCode s = 0 := by
  rw [statusCode, h]

theorem statusCode_of_faulted {s : State} {f : Fault} {a w : Word} (h : FaultedWith s f a w) : statusCode s = faultCode f := by
  rw [statusCode, h]

theorem faultCode_ne_zero (f : Fault) : faultCode f ≠ 0 := by
  cases f <;> decide

/-- Settles O59: a faulted core shows the code of its fault, and no fault has the code 0. -/
theorem statusCodesAreNumbered : Obligations.StatusCodesAreNumbered := by
  refine fun s a w => ⟨⟨fun hzero => ?_, statusCode_of_running⟩, statusCode_of_faulted, statusCode_of_faulted, statusCode_of_faulted,
    statusCode_of_faulted, statusCode_of_faulted, statusCode_of_faulted, statusCode_of_faulted⟩
  obtain hrun | ⟨f, a', w', hfault⟩ := running_or_faulted s
  · exact hrun
  · exact absurd ((statusCode_of_faulted hfault).symm.trans hzero) (faultCode_ne_zero f)

end Sys2Proof.Machine
end

section
/-!
Reset and hazards (70_reset_and_hazards.md): the first STEP after RESET and LOAD, and the parked state.
-/
namespace Sys2Proof.Machine

/-- A running core whose word at `pc` is that of `i` executes `i`. -/
theorem step_of_wordAtPc_eq_encode {s : State} {i : Instr} (hrun : Running s) (hpc : s.pc.toNat ≤ 0xFFE) (hword : wordAtPc s = encode i) :
    step s = exec i (s.setPc (s.pc + 2)) :=
  step_of_decode hrun hpc (by rw [hword, decodeWord_encode])

/-- An image that begins with the bytes of `i`, written at 0x200, is read back there as the word of `i`. -/
theorem word_of_written_image {m : Memory} (hmem : m.wf) (i : Instr) {rest : List Byte} (hrest : rest.length ≤ 3582) :
    wordOfBytes (readByte (writeBytes m Config.progBase (encodeBytes i ++ rest)) Config.progBase)
      (readByte (writeBytes m Config.progBase (encodeBytes i ++ rest)) (Config.progBase + 1)) = encode i := by
  have hfit := image_fits_memory (bytes := encodeBytes i ++ rest) (Nat.succ_le_succ (Nat.succ_le_succ hrest))
  have hhigh := readByte_writeBytes_of_getElem? (k := 0) (b := highByte (encode i)) hmem hfit rfl
  have hlow := readByte_writeBytes_of_getElem? (k := 1) (b := lowByte (encode i)) hmem hfit rfl
  rw [Nat.add_zero] at hhigh
  rw [hhigh, hlow, wordOfBytes_highByte_lowByte]

/-- Settles O51: RESET leaves a running core with `pc` at 0x200, and LOAD writes the instruction's word there. -/
theorem bootRunsTheFirstInstruction : Obligations.BootRunsTheFirstInstruction := by
  intro i rest s hrest
  have hlen : (encodeBytes i ++ rest).length ≤ 3584 := Nat.succ_le_succ (Nat.succ_le_succ hrest)
  refine ⟨s.resetFrom.setMem (writeBytes s.resetFrom.mem Config.progBase (encodeBytes i ++ rest)), ?commands, ?step⟩
  case commands =>
    calc commands [.reset, .load (encodeBytes i ++ rest)] s
        = .next (loadImage (encodeBytes i ++ rest) s.resetFrom) := rfl
      _ = _ := by rw [loadImage_of_le hlen]
  case step =>
    have hpc : Config.pcReset.toNat ≤ 0xFFE := by decide
    exact step_of_wordAtPc_eq_encode rfl hpc (word_of_written_image reset_mem_wf i hrest)

/-- An address below 4096 is the target of a jump (40_control.md R402). -/
theorem addrOperand_setWidth {a : Word} (h : a.toNat ≤ 0xFFE) : addrOperand (a.setWidth 12) = a := by
  apply BitVec.eq_of_toNat_eq
  rw [toNat_addrOperand, BitVec.toNat_setWidth]
  omega

/-- Settles O52: the word at `pc` is a jump to `pc`. -/
theorem parkedStateIsAFixedPoint : Obligations.ParkedStateIsAFixedPoint := by
  rintro s ⟨hrun, hpc, hword⟩
  have htarget := addrOperand_setWidth hpc
  have hjump : wordAtPc s = encode (.jp (s.pc.setWidth 12)) :=
    hword.trans (congrArg (0x1000 ||| ·) htarget.symm)
  calc step s
      = .next (s.setPc (addrOperand (s.pc.setWidth 12))) := step_of_wordAtPc_eq_encode hrun hpc hjump
    _ = .next s := by rw [htarget]; rfl

end Sys2Proof.Machine
end
